-- ==== Sys2Proof/Word.lean ====
section
/-! DEFINITION. The word types of GTF: command words, binary64 patterns, the two filter names. -/

namespace Sys2Proof

/-- A command word `CW`, OPC in bits 71:64 and DATA in bits 63:0 (30_encoding.md R38). -/
abbrev CommandWord := BitVec 72

/-- A binary64 value, held as its IEEE 754 encoding (00_scope.md R6). -/
abbrev F64 := BitVec 64

/-- The two ToneFilter instances: `M` (mark) and `S` (space) (00_scope.md R1, 40_tone_filter.md R50). -/
inductive Tone where
  | mark
  | space
  deriving DecidableEq, Repr

end Sys2Proof
end

