-- ==== Sys2Proof/Syntax.lean ====
section
/-! DEFINITION. The ten commands of 30_encoding.md R44, one constructor per row of spec/opcode_table.json. -/

namespace Sys2Proof

/-- A host command. Every field of the command word stands in its constructor, the reserved bits of R39 too
(`data` of formats Z and RD, `rsv` of S16 and U32): R47 makes every word with a legal OPC one of the ten
commands, and R46 then asks its reserved bits to be zero (log entry 9). -/
inductive Instr where
  /-- NOP, format Z, OPC 0x00 (R77). -/
  | nop (data : BitVec 64)
  /-- SAMPLE, format S16, OPC 0x01 (R78): reserved DATA[63:16], SMP = DATA[15:0] (R40). -/
  | sample (rsv : BitVec 48) (smp : BitVec 16)
  /-- END, format Z, OPC 0x02 (R79). -/
  | endRun (data : BitVec 64)
  /-- CONFIGURE, format Z, OPC 0x03 (R80). -/
  | configure (data : BitVec 64)
  /-- CLEAR_ERR, format Z, OPC 0x04 (R81). -/
  | clearErr (data : BitVec 64)
  /-- WR_RATE, format F64, OPC 0x10 (R82): FV = DATA[63:0] (R42). -/
  | wrRate (fv : BitVec 64)
  /-- WR_N, format U32, OPC 0x11 (R83): reserved DATA[63:32], VAL = DATA[31:0] (R41). -/
  | wrN (rsv : BitVec 32) (val : BitVec 32)
  /-- WR_MARKF, format F64, OPC 0x12 (R84): FV = DATA[63:0] (R42). -/
  | wrMarkf (fv : BitVec 64)
  /-- WR_SPACEF, format F64, OPC 0x13 (R85): FV = DATA[63:0] (R42). -/
  | wrSpacef (fv : BitVec 64)
  /-- READ, format RD, OPC 0x40 to 0x7F (R86): SEL = OPC[5:0] (R43), DATA reserved. -/
  | read (sel : BitVec 6) (data : BitVec 64)
  deriving DecidableEq, Repr

end Sys2Proof
end

