-- ==== Sys2Proof/WellFormed.lean ====
section
/-! DEFINITION. The reserved-bit check of 30_encoding.md R46. -/

namespace Sys2Proof

/-- The reserved DATA bits of the command's format are all zero (R46): Z and RD have 63:0, S16 has 63:16,
U32 has 63:32, F64 has none. -/
def Instr.wellFormed : Instr → Bool
  | .nop data => data == 0
  | .sample rsv _ => rsv == 0
  | .endRun data => data == 0
  | .configure data => data == 0
  | .clearErr data => data == 0
  | .wrRate _ => true
  | .wrN rsv _ => rsv == 0
  | .wrMarkf _ => true
  | .wrSpacef _ => true
  | .read _ data => data == 0

end Sys2Proof
end

