-- ==== Sys2Proof/Decode.lean ====
section
/-! DEFINITION. The decoder (30_encoding.md R44, R45, R47) and the encoder, from the same map. -/

namespace Sys2Proof

/-- What a 72-bit word is: exactly one of the ten commands, or illegal (R47). -/
inductive Decoded where
  /-- The word is this command. -/
  | instr (i : Instr)
  /-- Its OPC is outside the map of R44 (R45). -/
  | illegalOpcode
  deriving DecidableEq, Repr

/-- `OPC = CW[71:64]` (R38). -/
def opcField (w : CommandWord) : BitVec 8 := w.extractLsb' 64 8

/-- `DATA = CW[63:0]` (R38). -/
def dataField (w : CommandWord) : BitVec 64 := w.extractLsb' 0 64

/-- The word `OPC_DATA` (R38). -/
def mkWord (opc : BitVec 8) (data : BitVec 64) : CommandWord := opc ++ data

/-- The decoder: the opcode map of R44, with the operand fields of R39 to R43. -/
def decode (w : CommandWord) : Decoded :=
  let opc := opcField w
  let data := dataField w
  if opc = 0x00#8 then .instr (.nop data)
  else if opc = 0x01#8 then .instr (.sample (data.extractLsb' 16 48) (data.extractLsb' 0 16))
  else if opc = 0x02#8 then .instr (.endRun data)
  else if opc = 0x03#8 then .instr (.configure data)
  else if opc = 0x04#8 then .instr (.clearErr data)
  else if opc = 0x10#8 then .instr (.wrRate data)
  else if opc = 0x11#8 then .instr (.wrN (data.extractLsb' 32 32) (data.extractLsb' 0 32))
  else if opc = 0x12#8 then .instr (.wrMarkf data)
  else if opc = 0x13#8 then .instr (.wrSpacef data)
  else if opc.extractLsb' 6 2 = 0b01#2 then .instr (.read (opc.extractLsb' 0 6) data)
  else .illegalOpcode

/-- The encoder: the word of a command, from the formats of R39 and the opcode map of R44. -/
def encode : Instr → CommandWord
  | .nop data => mkWord 0x00#8 data
  | .sample rsv smp => mkWord 0x01#8 (rsv ++ smp)
  | .endRun data => mkWord 0x02#8 data
  | .configure data => mkWord 0x03#8 data
  | .clearErr data => mkWord 0x04#8 data
  | .wrRate fv => mkWord 0x10#8 fv
  | .wrN rsv val => mkWord 0x11#8 (rsv ++ val)
  | .wrMarkf fv => mkWord 0x12#8 fv
  | .wrSpacef fv => mkWord 0x13#8 fv
  | .read sel data => mkWord (0b01#2 ++ sel) data

/-- The command word of a row of spec/opcode_table.json given as the number `w` of `nbits` bits, numbered as
the table's own `fixed` field numbers it: OPC in bits 7:0, and bit `8 + i` is DATA bit `i`. With all 72 bits
given, `w` is the command word in the spec's numbering, OPC in bits 71:64 (R38; log entry 2). -/
def tableWord (nbits w : Nat) : CommandWord :=
  if nbits < 72 then
    mkWord (BitVec.ofNat 8 (w % 2 ^ nbits)) (BitVec.ofNat 64 (w % 2 ^ nbits / 2 ^ 8))
  else BitVec.ofNat 72 w

/-- The command the decoder accepts in a table row's word: none for an illegal opcode (R45) and for a word
whose reserved bits are not zero (R46, R47). -/
def decodeTableWord (nbits w : Nat) : Option Instr :=
  match decode (tableWord nbits w) with
  | .instr i => if i.wellFormed then some i else none
  | .illegalOpcode => none

end Sys2Proof
end

