-- ==== Sys2Proof/Machine/State.lean ====
section
/-! DEFINITION. The state of GTF (10_state.md) as plain data, the reasons a step could stop, and the state after reset. -/

namespace Sys2Proof.Machine

/-- `STATE`, the control state (R14); its value 3 is never held. -/
inductive CtrlState where
  /-- 0: no successful CONFIGURE since reset. -/
  | unconfigured
  /-- 1: the filters are constructed. -/
  | configured
  /-- 2: the last CONFIGURE failed validation. -/
  | cfgError
  deriving DecidableEq, Repr

/-- The codes of `ERR` (R15; 60_exceptions.md R88); the codes 6 to 15 are never held. -/
inductive ErrCode where
  /-- 0, no error since reset or the last CLEAR_ERR. -/
  | noError
  /-- 1. -/
  | illegalOpcode
  /-- 2. -/
  | reservedNonzero
  /-- 3. -/
  | notConfigured
  /-- 4. -/
  | badConfig
  /-- 5. -/
  | badSelect
  deriving DecidableEq, Repr

/-- The four configuration values, each a bit pattern; the staging registers (R16) and the active registers
(R17) are one such group each. -/
structure ConfigRegs where
  /-- `samplingRate`, a binary64 pattern. -/
  rate : BitVec 64
  /-- `blockSize`, a u32. -/
  n : BitVec 32
  /-- `markFrequency`, a binary64 pattern. -/
  markf : BitVec 64
  /-- `spaceFrequency`, a binary64 pattern. -/
  spacef : BitVec 64
  deriving DecidableEq, Repr

/-- The registers of one ToneFilter (R18, R19; 40_tone_filter.md R50), and the model's own draw counter. -/
structure Filter where
  /-- `COEFF.f`. -/
  coeff : F64
  /-- `COS.f`. -/
  cos : F64
  /-- `SIN.f`. -/
  sin : F64
  /-- `K.f`. -/
  k : F64
  /-- `KINT.f`, a u64. -/
  kint : BitVec 64
  /-- `Q1.f`. -/
  q1 : F64
  /-- `Q2.f`. -/
  q2 : F64
  /-- The index of this filter's next free NaN pattern: the model's own field, no register (log entry 3). -/
  draws : Nat
  deriving DecidableEq, Repr

/-- What the host gives GTF: a command word, or the reset event between two commands (70_reset_and_hazards.md
R100, R111). -/
inductive HostInput where
  | command (w : CommandWord)
  | reset
  deriving DecidableEq, Repr

/-- The state of GTF: the registers of R14 to R22, the output channels of R23, and the host's inputs that GTF
has not taken yet. -/
structure State where
  /-- `STATE` (R14). -/
  ctrl : CtrlState
  /-- `ERR` (R15). -/
  err : ErrCode
  /-- `STG_RATE`, `STG_N`, `STG_MARKF`, `STG_SPACEF` (R16). -/
  staging : ConfigRegs
  /-- `RATE`, `N`, `MARKF`, `SPACEF` (R17). -/
  active : ConfigRegs
  /-- The registers of filter M (R18, R19). -/
  mark : Filter
  /-- The registers of filter S (R18, R19). -/
  space : Filter
  /-- `CNT` (R20). -/
  cnt : BitVec 32
  /-- `FULLBLK` (R21). -/
  fullblk : Bool
  /-- `FBITS[0]` to `FBITS[9]`: cell `j` is bit `j` (R22). -/
  fbits : BitVec 10
  /-- `FCNT` (R22). -/
  fcnt : BitVec 4
  /-- `BIT_OUT`, oldest item first (R23). -/
  bitOut : List Bool
  /-- `CHAR_OUT`, oldest item first (R23). -/
  charOut : List (BitVec 7)
  /-- `RESP_OUT`, oldest item first (R23). -/
  respOut : List (BitVec 64)
  /-- The host's inputs not yet taken, next one first (20_memory.md R34; log entry 1). -/
  inbox : List HostInput
  deriving DecidableEq, Repr

/-- GTF has no fault: "GTF has no `stuck` and no `fault` outcome" (93_implementation_defined.md, introduction;
60_exceptions.md R87; log entry 15). -/
inductive Fault where
  deriving DecidableEq, Repr

/-- The refusals of the model. -/
inductive Refusal where
  /-- Raised by an arm of `exec` for an instruction that has no meaning yet; no arm raises it now. Safe. -/
  | notModelled (mnemonic : String)
  deriving DecidableEq, Repr

/-- The reset values of a group of active configuration registers (R17, R28). -/
def ConfigRegs.zero : ConfigRegs := { rate := 0#64, n := 0#32, markf := 0#64, spacef := 0#64 }

/-- The reset values of the staging registers (R16, R28): STG_N is 160, the others +0.0. -/
def ConfigRegs.stagingReset : ConfigRegs := { rate := 0#64, n := 160#32, markf := 0#64, spacef := 0#64 }

/-- The reset values of a filter's registers (R18, R19, R28), with its draw counter at `draws`. -/
def Filter.zero (draws : Nat) : Filter :=
  { coeff := 0#64, cos := 0#64, sin := 0#64, k := 0#64, kint := 0#64, q1 := 0#64, q2 := 0#64, draws := draws }

/-- The state right after reset (R28, 70_reset_and_hazards.md R100), with the channels empty (R101), nothing
sent by the host yet (log entry 1) and the draw counters at 0 (log entry 3). -/
def State.reset : State :=
  { ctrl := .unconfigured
    err := .noError
    staging := .stagingReset
    active := .zero
    mark := .zero 0
    space := .zero 0
    cnt := 0#32
    fullblk := false
    fbits := 0#10
    fcnt := 0#4
    bitOut := []
    charOut := []
    respOut := []
    inbox := [] }

end Sys2Proof.Machine
end

