-- ==== Sys2Proof/Machine/Flags.lean ====
section
/-! DEFINITION. The status fields: the codes of STATE and ERR, and the STATUS and FRAME views (10_state.md R14,
R15, R24, R25). GTF has no arithmetic flags (40_tone_filter.md R61). -/

namespace Sys2Proof.Machine

/-- The 2-bit value of `STATE` (R14). -/
def CtrlState.code : CtrlState → BitVec 2
  | .unconfigured => 0#2
  | .configured => 1#2
  | .cfgError => 2#2

/-- The 4-bit value of `ERR` (60_exceptions.md R88). -/
def ErrCode.code : ErrCode → BitVec 4
  | .noError => 0#4
  | .illegalOpcode => 1#4
  | .reservedNonzero => 2#4
  | .notConfigured => 3#4
  | .badConfig => 4#4
  | .badSelect => 5#4

/-- `STATUS` (R24): reserved 63:12, ERR 11:8, FCNT 7:4, reserved 3, FULLBLK 2, STATE 1:0. -/
def statusView (s : State) : BitVec 64 :=
  0#52 ++ s.err.code ++ s.fcnt ++ 0#1 ++ BitVec.ofBool s.fullblk ++ s.ctrl.code

/-- `FRAME` (R25): FCNT in 19:16, `FBITS[j]` in bit `j`, all other bits 0. -/
def frameView (s : State) : BitVec 64 := 0#44 ++ s.fcnt ++ 0#6 ++ s.fbits

end Sys2Proof.Machine
end

