-- ==== Sys2Proof/Config.lean ====
section
/-! DEFINITION. The open parameters of GTF (00_scope.md R5): constants without a body, so that no proof can see a value. -/

namespace Sys2Proof

/-- `COS64`, a total function from f64 to f64, OPEN (00_scope.md R11, decision D10). -/
opaque Config.cos64 : F64 → F64

/-- `SIN64`, a total function from f64 to f64, OPEN (00_scope.md R11, decision D10). -/
opaque Config.sin64 : F64 → F64

/-- The source of the free NaN patterns, one stream for each filter (00_scope.md R5, decision D27, log entry 3).
Only its sign bit and its fraction are used: `Machine.nanDraw` makes a NaN of them. -/
opaque Config.freeNaN : Tone → Nat → F64

end Sys2Proof
end

