-- ==== Sys2Proof/Machine/Binary64.lean ====
section
/-! DEFINITION. The binary64 primitives of 00_scope.md R6 to R10 and R12, computed exactly and rounded once.
Every finite binary64 value is a whole multiple of 2^-1074, the smallest subnormal; that multiple is the exact
integer the operations work with, and `roundMagnitude` is the one place that rounds. An operation whose result
is a NaN gives its argument `nan`, the free pattern its caller draws (R5, decision D27; log entry 3). -/

namespace Sys2Proof.Machine

/-! ### The encoding (R6) -/

/-- The encoding without its sign bit, as a number: `2^52 * exponent + fraction`. -/
def magnitude (x : F64) : Nat := x.toNat % 2 ^ 63

/-- The magnitude of an infinity: exponent all ones, fraction zero. -/
def infMagnitude : Nat := 2047 * 2 ^ 52

/-- Exponent all ones and a nonzero fraction. -/
def isNaN (x : F64) : Bool := decide (infMagnitude < magnitude x)

/-- Exponent all ones and a zero fraction. -/
def isInf (x : F64) : Bool := decide (magnitude x = infMagnitude)

/-- Neither an infinity nor a NaN. -/
def isFinite (x : F64) : Bool := decide (magnitude x < infMagnitude)

/-- +0.0 or -0.0. -/
def isZero (x : F64) : Bool := decide (magnitude x = 0)

/-- The sign bit, bit 63: true for a negative sign. -/
def signBit (x : F64) : Bool := x.msb

/-- The multiple of 2^-1074 that the magnitude `p` of a finite value stands for (subnormals: the fraction). -/
def unitsOf (p : Nat) : Nat :=
  if p / 2 ^ 52 = 0 then p else (2 ^ 52 + p % 2 ^ 52) * 2 ^ (p / 2 ^ 52 - 1)

/-- The value 1.0 in units of 2^-1074. -/
def oneUnits : Nat := 2 ^ 1074

/-- The magnitude of a finite value in units of 2^-1074. -/
def units (x : F64) : Nat := unitsOf (magnitude x)

/-- A finite value in units of 2^-1074, with its sign. -/
def exact (x : F64) : Int := if signBit x then -(units x : Int) else units x

/-- The encoding with sign `neg` and magnitude `p`. -/
def pack (neg : Bool) (p : Nat) : F64 := BitVec.ofNat 64 ((if neg then 2 ^ 63 else 0) + p)

/-- The free NaN pattern number `i` of filter `t`: exponent all ones, sign and fraction free, fraction nonzero. -/
def nanDraw (t : Tone) (i : Nat) : F64 :=
  let free := Config.freeNaN t i
  let fraction := free.toNat % 2 ^ 52
  pack free.msb (infMagnitude + if fraction = 0 then 1 else fraction)

/-! ### Rounding (R7) -/

/-- The magnitude of `num / den` units of 2^-1074 rounded once with roundTiesToEven: the quotient keeps 53
significant bits, or the bits down to one unit when it has fewer; the scale `k` is added to the encoding as the
exponent, so that a carry out of the significand moves to the next exponent and, past the largest finite
value, to infinity. -/
def roundMagnitude (num den : Nat) : Nat :=
  let k := (num / den).log2 - 52
  let scaled := den * 2 ^ k
  let q := num / scaled
  let r := num % scaled
  let up := decide (scaled < 2 * r) || (decide (2 * r = scaled) && decide (q % 2 = 1))
  min (k * 2 ^ 52 + q + (if up then 1 else 0)) infMagnitude

/-- An exact integer multiple of 2^-1074, not zero, rounded once. -/
def roundExact (z : Int) : F64 := pack (decide (z < 0)) (roundMagnitude z.natAbs 1)

/-! ### Arithmetic (R7) -/

/-- The sign bit flipped. -/
def fneg (x : F64) : F64 := x ^^^ 0x8000000000000000#64

/-- `fadd(a, b)` (R7): inf + -inf is a NaN; a zero sum is -0 only for (-0) + (-0). -/
def fadd (nan a b : F64) : F64 :=
  if isNaN a || isNaN b then nan
  else if isInf a then (if isInf b && signBit a != signBit b then nan else a)
  else if isInf b then b
  else
    let z := exact a + exact b
    if z = 0 then pack (signBit a && signBit b) 0 else roundExact z

/-- `fsub(a, b)` (R7): the sum of `a` and `-b`. -/
def fsub (nan a b : F64) : F64 := fadd nan a (fneg b)

/-- `fmul(a, b)` (R7): 0 * inf is a NaN; the sign is the exclusive or of the signs. -/
def fmul (nan a b : F64) : F64 :=
  let neg := signBit a != signBit b
  if isNaN a || isNaN b then nan
  else if isInf a || isInf b then (if isZero a || isZero b then nan else pack neg infMagnitude)
  else pack neg (roundMagnitude (units a * units b) oneUnits)

/-- `fdiv(a, b)` (R7): 0 / 0 and inf / inf are NaNs; x / 0 for finite nonzero x is a signed infinity. -/
def fdiv (nan a b : F64) : F64 :=
  let neg := signBit a != signBit b
  if isNaN a || isNaN b then nan
  else if isInf a then (if isInf b then nan else pack neg infMagnitude)
  else if isInf b then pack neg 0
  else if isZero b then (if isZero a then nan else pack neg infMagnitude)
  else pack neg (roundMagnitude (units a * oneUnits) (units b))

/-! ### Comparison (R8) -/

/-- The order key of a value that is no NaN: magnitudes order as their encodings do, and the two zeros agree. -/
def orderKey (x : F64) : Int := if signBit x then -(magnitude x : Int) else magnitude x

/-- `fge(a, b)` (R8): the quiet comparison "greater than or equal"; false with a NaN operand. -/
def fge (a b : F64) : Bool := !isNaN a && !isNaN b && decide (orderKey b ≤ orderKey a)

/-! ### Conversions (R9, R10) and constants -/

/-- The f64 of an integer; zero converts to +0.0 (R9). -/
def intToF64 (z : Int) : F64 := pack (decide (z < 0)) (roundMagnitude (z.natAbs * oneUnits) 1)

/-- `i16_to_f64(v)` (R9). -/
def i16ToF64 (v : BitVec 16) : F64 := intToF64 v.toInt

/-- `u32_to_f64(n)` (R9). -/
def u32ToF64 (n : BitVec 32) : F64 := intToF64 n.toNat

/-- `trunc_sat_u64(x)` (R10). -/
def truncSatU64 (x : F64) : BitVec 64 :=
  if isNaN x then 0#64
  else if signBit x then 0#64
  else if isInf x then BitVec.ofNat 64 (2 ^ 64 - 1)
  else BitVec.ofNat 64 (min (units x / oneUnits) (2 ^ 64 - 1))

/-- The constant 2.0 (30_encoding.md, section 5). -/
def two : F64 := 0x4000000000000000#64

/-- The constant 1.0. -/
def one : F64 := 0x3FF0000000000000#64

/-- +0.0 (R6). -/
def posZero : F64 := 0x0000000000000000#64

/-- `PI64` (R12). -/
def pi64 : F64 := 0x400921FB54442D18#64

/-- CONFIGURE's `valid(x)` (43_commands.md R80): not NaN, not +inf, and greater than +0.0. -/
def validReal (x : F64) : Bool := !isNaN x && !isInf x && !signBit x && !isZero x

/-! ### The assumed properties of COS64 and SIN64 (R11), by name only -/

/-- P-COS-NAN: the results are NaN when the argument is a NaN or an infinity. -/
def PCosNan : Prop :=
  ∀ x : F64, isFinite x = false → isNaN (Config.cos64 x) = true ∧ isNaN (Config.sin64 x) = true

/-- `y` lies in [-1.0, +1.0]. -/
def inUnitRange (y : F64) : Bool := fge one y && fge y (fneg one)

/-- P-COS-RANGE: for finite arguments both results lie in [-1.0, +1.0]. -/
def PCosRange : Prop :=
  ∀ x : F64, isFinite x = true → inUnitRange (Config.cos64 x) = true ∧ inUnitRange (Config.sin64 x) = true

/-- The arguments of the test vectors with their correctly rounded cosine and sine: V-D1 to V-D10
(95_test_vectors.md, section 2.1), and V-D12's two (section 2.2): +0.0, and for the space filter (2.0 * PI64) * K
with K = 1e-308. V-D11's space filter, V-K15 and V-K22 use arguments already listed. -/
def cosVectors : List (F64 × F64 × F64) :=
  [(0x401921FB54442D18#64, 0x3FF0000000000000#64, 0xBCB1A62633145C07#64),
   (0x400921FB54442D18#64, 0xBFF0000000000000#64, 0x3CA1A62633145C07#64),
   (0x3FF921FB54442D18#64, 0x3C91A62633145C07#64, 0x3FF0000000000000#64),
   (0x3FD2A3DEAB4C29FA#64, 0x3FEEA6FEC9CC2E8F#64, 0x3FD260B0E38401F4#64),
   (0x3FD0F6F00C146B3D#64, 0x3FEEE1E22E99E102#64, 0x3FD0C4420D1CD752#64),
   (0x3FC547701943F665#64, 0x3FEF8F0F98E71BAA#64, 0x3FC52E618ED8FEBF#64),
   (0x3FC1ED92DAD478EA#64, 0x3FEFAFC71CB566D1#64, 0x3FC1DE951399AB61#64),
   (0x3FE7A66077FFA44A#64, 0x3FE7A6B9D5563ACD#64, 0x3FE58E135963670E#64),
   (0x3FE15DE1A2EE9904#64, 0x3FEB66E8C0E3253E#64, 0x3FE086D43178B4FA#64),
   (0x3FEDEEDF4D10AF90#64, 0x3FE2FDDCE7931544#64, 0x3FE9C144073D579F#64),
   (0x0000000000000000#64, 0x3FF0000000000000#64, 0x0000000000000000#64),
   (0x0026972994076E32#64, 0x3FF0000000000000#64, 0x0026972994076E32#64)]

/-- P-COS-CR: at the arguments of the test vectors the results are the correctly rounded values. -/
def PCosCr : Prop := ∀ v ∈ cosVectors, Config.cos64 v.1 = v.2.1 ∧ Config.sin64 v.1 = v.2.2

end Sys2Proof.Machine
end

