-- ==== Sys2Proof/Machine/ToneFilter.lean ====
section
/-! DEFINITION. The ToneFilter operations of 40_tone_filter.md (R50 to R60) on one filter's registers.
Operation number `j` of a formula takes the free NaN pattern `draws + j` of its filter (log entry 3). -/

namespace Sys2Proof.Machine

/-- The draw counter moved past `c` operations; no register changes. -/
def Filter.spend (f : Filter) (c : Nat) : Filter := { f with draws := f.draws + c }

/-- The free NaN pattern for operation number `j` of the formula now evaluated. -/
def Filter.nan (t : Tone) (f : Filter) (j : Nat) : F64 := nanDraw t (f.draws + j)

/-- A result of COS64 or SIN64; its NaN, if it is one, is a draw too (U3; log entry 5). -/
def openResult (nan x : F64) : F64 := if isNaN x then nan else x

/-- `omega`, a temporary: `((2.0 * PI64) * K) / n` (R52). -/
def omegaOf (nan2pi nanProduct nanQuotient : F64) (k : F64) (n : BitVec 32) : F64 :=
  fdiv nanQuotient (fmul nanProduct (fmul nan2pi two pi64) k) (u32ToF64 n)

/-- `DERIVE(f, n, freq, rate)` (R51 to R55). -/
def Filter.derive (t : Tone) (f : Filter) (n : BitVec 32) (freq rate : F64) : Filter :=
  let k := fdiv (f.nan t 1) (fmul (f.nan t 0) (u32ToF64 n) freq) rate
  let omega := omegaOf (f.nan t 2) (f.nan t 3) (f.nan t 4) k n
  let c := openResult (f.nan t 5) (Config.cos64 omega)
  { coeff := fmul (f.nan t 7) two c
    cos := c
    sin := openResult (f.nan t 6) (Config.sin64 omega)
    k := k
    kint := truncSatU64 k
    q1 := posZero
    q2 := posZero
    draws := f.draws + 8 }

/-- `STEP(f, s)` (R56): three roundings, no fused multiply-add; both reads happen before either write. -/
def Filter.step (t : Tone) (f : Filter) (s : F64) : Filter :=
  let q0 := fadd (f.nan t 2) (fsub (f.nan t 1) (fmul (f.nan t 0) f.coeff f.q1) f.q2) s
  { f with q1 := q0, q2 := f.q1, draws := f.draws + 3 }

/-- `PROCESS(f, seq)` (R57): STEP for each value in order; nothing is cleared. -/
def Filter.process (t : Tone) (f : Filter) (seq : List F64) : Filter := seq.foldl (Filter.step t) f

/-- `MAG(f)` (R58): each of the six operations of the formula is rounded once (log entry 16); writes nothing. -/
def Filter.mag (t : Tone) (f : Filter) : F64 :=
  fsub (f.nan t 5)
    (fadd (f.nan t 2) (fmul (f.nan t 0) f.q1 f.q1) (fmul (f.nan t 1) f.q2 f.q2))
    (fmul (f.nan t 4) (fmul (f.nan t 3) f.q1 f.q2) f.coeff)

/-- The first result of `REALIMAG(f)` (R59); writes nothing. -/
def Filter.real (t : Tone) (f : Filter) : F64 := fsub (f.nan t 1) f.q1 (fmul (f.nan t 0) f.q2 f.cos)

/-- The second result of `REALIMAG(f)` (R59); writes nothing. -/
def Filter.imag (t : Tone) (f : Filter) : F64 := fmul (f.nan t 0) f.q2 f.sin

/-- `RESET(f)` (R60): the accumulators to +0.0; the coefficient registers do not change. -/
def Filter.clear (f : Filter) : Filter := { f with q1 := posZero, q2 := posZero }

end Sys2Proof.Machine
end

