-- ==== Sys2Proof/Machine/Ops.lean ====
section
/-! DEFINITION. The operations the commands share: access to the filters, the output channels, rejection (GTF's
only exceptional outcome) and its acknowledgement, the reset event, and taking the host's next input. -/

namespace Sys2Proof.Machine

/-! ### The filters by name -/

/-- The registers of filter `t`. -/
def State.filter (s : State) : Tone → Filter
  | .mark => s.mark
  | .space => s.space

/-- The registers of filter `t` replaced. -/
def State.setFilter (s : State) (t : Tone) (f : Filter) : State :=
  match t with
  | .mark => { s with mark := f }
  | .space => { s with space := f }

/-- `RESET(M); RESET(S)` (40_tone_filter.md R60). -/
def clearFilters (s : State) : State := { s with mark := s.mark.clear, space := s.space.clear }

/-! ### The output channels (10_state.md R23) -/

/-- `emit BIT_OUT(b)`. -/
def emitBit (b : Bool) (s : State) : State := { s with bitOut := s.bitOut ++ [b] }

/-- `emit CHAR_OUT(c)`. -/
def emitChar (c : BitVec 7) (s : State) : State := { s with charOut := s.charOut ++ [c] }

/-- `emit RESP_OUT(v)`. -/
def emitResp (v : BitVec 64) (s : State) : State := { s with respOut := s.respOut ++ [v] }

/-! ### Rejection (60_exceptions.md R87, R89) -/

/-- The effects of a rejected command, and no others: ERR takes the code, and BAD_CONFIG also moves STATE to
CFG_ERROR (R87). The next command runs normally (R94: this is all there is to a trap entry and its return). -/
def reject (c : ErrCode) (s : State) : State :=
  { s with err := c, ctrl := if c = .badConfig then .cfgError else s.ctrl }

/-- A rejected or erroneous READ appends one word 0 to RESP_OUT first (R87; 43_commands.md R86). -/
def rejectRead (c : ErrCode) (s : State) : State := reject c (emitResp 0#64 s)

/-- The host's acknowledgement of an error, `R[ERR] <- 0` (R94; 43_commands.md R81). -/
def acknowledge (s : State) : State := { s with err := .noError }

/-! ### Reset (70_reset_and_hazards.md R100, R101) -/

/-- The reset event: every register takes its reset value; the items already on the channels stay (R101), and
so do the host's later inputs and the position of the free NaN streams (log entry 6). -/
def applyReset (s : State) : State :=
  { State.reset with
    mark := .zero s.mark.draws
    space := .zero s.space.draws
    bitOut := s.bitOut
    charOut := s.charOut
    respOut := s.respOut
    inbox := s.inbox }

/-! ### The host's inputs (20_memory.md R34) -/

/-- The host's next input and the state without it; none when the host has sent nothing more. -/
def takeInput (s : State) : Option (HostInput × State) :=
  match s.inbox with
  | [] => none
  | h :: rest => some (h, { s with inbox := rest })

/-- With nothing to execute, GTF "is idle and holds its state unchanged" (60_exceptions.md R99). -/
def idle (s : State) : State := s

end Sys2Proof.Machine
end

