-- ==== Sys2Proof/Machine/Operands.lean ====
section
/-! DEFINITION. The operand forms of 30_encoding.md R40 to R43, and the READ register map of 10_state.md R26. -/

namespace Sys2Proof.Machine

/-- The S16 operand: the sample as the filters take it, `i16_to_f64(SMP)` (R40). -/
def sampleValue (smp : BitVec 16) : F64 := i16ToF64 smp

/-- The ten selectors each filter has (R26): 0x10 to 0x19 for M, 0x20 to 0x29 for S. -/
inductive FilterView where
  | q1
  | q2
  | coeff
  | cos
  | sin
  | k
  | kint
  | mag
  | real
  | imag
  deriving DecidableEq, Repr

/-- The 31 assigned selectors (R26). -/
inductive ReadTarget where
  | status
  | stgRate
  | stgN
  | stgMarkf
  | stgSpacef
  | rate
  | n
  | markf
  | spacef
  | cnt
  | frame
  | filter (t : Tone) (v : FilterView)
  deriving DecidableEq, Repr

/-- The low four bits of a filter's selector (R26). -/
def filterViewOf (low : BitVec 4) : Option FilterView :=
  if low = 0x0#4 then some .q1
  else if low = 0x1#4 then some .q2
  else if low = 0x2#4 then some .coeff
  else if low = 0x3#4 then some .cos
  else if low = 0x4#4 then some .sin
  else if low = 0x5#4 then some .k
  else if low = 0x6#4 then some .kint
  else if low = 0x7#4 then some .mag
  else if low = 0x8#4 then some .real
  else if low = 0x9#4 then some .imag
  else none

/-- The register map (R26); none for an unassigned selector. -/
def readTarget (sel : BitVec 6) : Option ReadTarget :=
  let low := sel.extractLsb' 0 4
  if sel = 0x00#6 then some .status
  else if sel = 0x01#6 then some .stgRate
  else if sel = 0x02#6 then some .stgN
  else if sel = 0x03#6 then some .stgMarkf
  else if sel = 0x04#6 then some .stgSpacef
  else if sel = 0x05#6 then some .rate
  else if sel = 0x06#6 then some .n
  else if sel = 0x07#6 then some .markf
  else if sel = 0x08#6 then some .spacef
  else if sel = 0x09#6 then some .cnt
  else if sel = 0x0A#6 then some .frame
  else if sel.extractLsb' 4 2 = 1#2 then (filterViewOf low).map (.filter .mark)
  else if sel.extractLsb' 4 2 = 2#2 then (filterViewOf low).map (.filter .space)
  else none

/-- The value of one of a filter's selectors (R26): a register, or MAG, REAL or IMAG computed now (R58, R59). -/
def filterValue (t : Tone) (f : Filter) : FilterView → BitVec 64
  | .q1 => f.q1
  | .q2 => f.q2
  | .coeff => f.coeff
  | .cos => f.cos
  | .sin => f.sin
  | .k => f.k
  | .kint => f.kint
  | .mag => f.mag t
  | .real => f.real t
  | .imag => f.imag t

/-- The value a READ returns (R26); narrower registers are zero-extended (20_memory.md R31). -/
def readValue (s : State) : ReadTarget → BitVec 64
  | .status => statusView s
  | .stgRate => s.staging.rate
  | .stgN => s.staging.n.setWidth 64
  | .stgMarkf => s.staging.markf
  | .stgSpacef => s.staging.spacef
  | .rate => s.active.rate
  | .n => s.active.n.setWidth 64
  | .markf => s.active.markf
  | .spacef => s.active.spacef
  | .cnt => s.cnt.setWidth 64
  | .frame => frameView s
  | .filter t v => filterValue t (s.filter t) v

/-- How many operations the value takes: only MAG, REAL and IMAG are computed. -/
def FilterView.operations : FilterView → Nat
  | .mag => 6
  | .real => 2
  | .imag => 1
  | .q1 | .q2 | .coeff | .cos | .sin | .k | .kint => 0

/-- A READ writes no register (R86); a computed value uses up its operations' draws (log entry 3). -/
def spendRead (s : State) : ReadTarget → State
  | .filter t v => s.setFilter t ((s.filter t).spend v.operations)
  | .status | .stgRate | .stgN | .stgMarkf | .stgSpacef | .rate | .n | .markf | .spacef | .cnt | .frame => s

end Sys2Proof.Machine
end

