-- ==== Sys2Proof/Machine/Inspect.lean ====
section
/-! DEFINITION. The commands that change no run: NOP, CLEAR_ERR, READ (43_commands.md R77, R81, R86). -/

namespace Sys2Proof.Machine

/-- NOP (R77). -/
def execNop (data : BitVec 64) (s : State) : Host.Outcome State Fault Refusal :=
  if data ≠ 0#64 then .next (reject .reservedNonzero s) else .next s

/-- CLEAR_ERR (R81). -/
def execClearErr (data : BitVec 64) (s : State) : Host.Outcome State Fault Refusal :=
  if data ≠ 0#64 then .next (reject .reservedNonzero s) else .next (acknowledge s)

/-- READ (R86): exactly one word goes to RESP_OUT, 0 on an error. -/
def execRead (sel : BitVec 6) (data : BitVec 64) (s : State) : Host.Outcome State Fault Refusal :=
  if data ≠ 0#64 then .next (rejectRead .reservedNonzero s)
  else
    match readTarget sel with
    | none => .next (rejectRead .badSelect s)
    | some r => .next (emitResp (readValue s r) (spendRead s r))

end Sys2Proof.Machine
end

