-- ==== Sys2Proof/Machine/Frame.lean ====
section
/-! DEFINITION. BitStreamAssembler and FrameDecoder: 42_frame_decoder.md R68 to R76. -/

namespace Sys2Proof.Machine

/-- `R[FBITS[i]] <- b`, one cell (R68). -/
def setCell (fbits : BitVec 10) (i : Nat) (b : Bool) : BitVec 10 :=
  (fbits &&& ~~~(1#10 <<< i)) ||| ((BitVec.ofBool b).setWidth 10 <<< i)

/-- A frame is valid if and only if its start bit `c[0]` is 0 and its stop bit `c[9]` is 1 (R70); `c[8]` is
ignored (R72). -/
def frameValid (c : BitVec 10) : Bool := !c.getLsbD 0 && c.getLsbD 9

/-- The 7-bit code of a frame: `c[1]` is its bit 0 and `c[7]` its bit 6 (R71). -/
def frameCode (c : BitVec 10) : BitVec 7 := c.extractLsb' 1 7

/-- `DECODE_FRAME(c)` (R70 to R75): a valid frame's code goes to CHAR_OUT; an invalid frame emits nothing and
sets no error. Every 7-bit code is valid, so R74's skip never arises. -/
def decodeFrame (c : BitVec 10) (s : State) : State := if frameValid c then emitChar (frameCode c) s else s

/-- `FRAME_DISCARD()` (R76). -/
def frameDiscard (s : State) : State := { s with fbits := 0#10, fcnt := 0#4 }

/-- `ASM_PUSH(b)` (R68): the bit goes to BIT_OUT, then into its cell; the tenth bit decodes the frame and
clears the frame register. -/
def asmPush (b : Bool) (s : State) : State :=
  let s1 := emitBit b s
  let s2 := { s1 with fbits := setCell s1.fbits s1.fcnt.toNat b, fcnt := s1.fcnt + 1#4 }
  if s2.fcnt = 10#4 then frameDiscard (decodeFrame s2.fbits s2) else s2

end Sys2Proof.Machine
end

