-- ==== Sys2Proof/Machine/Setup.lean ====
section
/-! DEFINITION. The commands that set the configuration: CONFIGURE, WR_RATE, WR_N, WR_MARKF, WR_SPACEF
(43_commands.md R80, R82 to R85). -/

namespace Sys2Proof.Machine

/-- CONFIGURE's validation of the staging registers (R80). -/
def validConfig (c : ConfigRegs) : Bool :=
  c.n != 0#32 && validReal c.rate && validReal c.markf && validReal c.spacef

/-- CONFIGURE after a passed validation (R80): the active registers, both filters, and a fresh run. -/
def construct (s : State) : State :=
  frameDiscard
    { s with
      active := s.staging
      mark := s.mark.derive .mark s.staging.n s.staging.markf s.staging.rate
      space := s.space.derive .space s.staging.n s.staging.spacef s.staging.rate
      cnt := 0#32
      fullblk := false
      ctrl := .configured }

/-- CONFIGURE (R80). -/
def execConfigure (data : BitVec 64) (s : State) : Host.Outcome State Fault Refusal :=
  if data ≠ 0#64 then .next (reject .reservedNonzero s)
  else if validConfig s.staging then .next (construct s)
  else .next (reject .badConfig s)

/-- WR_RATE (R82). -/
def execWrRate (fv : BitVec 64) (s : State) : Host.Outcome State Fault Refusal :=
  .next { s with staging := { s.staging with rate := fv } }

/-- WR_N (R83). -/
def execWrN (rsv val : BitVec 32) (s : State) : Host.Outcome State Fault Refusal :=
  if rsv ≠ 0#32 then .next (reject .reservedNonzero s)
  else .next { s with staging := { s.staging with n := val } }

/-- WR_MARKF (R84). -/
def execWrMarkf (fv : BitVec 64) (s : State) : Host.Outcome State Fault Refusal :=
  .next { s with staging := { s.staging with markf := fv } }

/-- WR_SPACEF (R85). -/
def execWrSpacef (fv : BitVec 64) (s : State) : Host.Outcome State Fault Refusal :=
  .next { s with staging := { s.staging with spacef := fv } }

end Sys2Proof.Machine
end

