-- ==== Sys2Proof/Machine/Comparator.lean ====
section
/-! DEFINITION. ToneComparator: 41_tone_comparator.md R62 to R67. -/

namespace Sys2Proof.Machine

/-- `FEED(s)` (R62): STEP of M, STEP of S with the same sample, and one more sample in CNT. -/
def feed (v : F64) (s : State) : State :=
  { s with mark := s.mark.step .mark v, space := s.space.step .space v, cnt := s.cnt + 1#32 }

/-- `DECIDE()` (R63): 1 when MAG(M) >= MAG(S), ties to mark; 0 when a magnitude is a NaN (R67). Writes nothing. -/
def decideBit (s : State) : Bool := fge (s.mark.mag .mark) (s.space.mag .space)

/-- `BLOCK_END()` (R64): the bit is decided before either filter is reset. -/
def blockEnd (s : State) : State :=
  asmPush (decideBit s) { clearFilters s with cnt := 0#32, fullblk := true }

/-- `FLUSH_BLOCK()` (R65): a partial final block yields a bit only when the run had a full block. -/
def flushBlock (s : State) : State :=
  let s1 :=
    if s.cnt = 0#32 then s
    else if s.fullblk then blockEnd s
    else { clearFilters s with cnt := 0#32 }
  { s1 with fullblk := false }

end Sys2Proof.Machine
end

