-- ==== Sys2Proof/Machine/Stream.lean ====
section
/-! DEFINITION. The commands that drive a run: SAMPLE and END (43_commands.md R78, R79). -/

namespace Sys2Proof.Machine

/-- SAMPLE after its checks (R78): FEED, and BLOCK_END when CNT reaches N. -/
def acceptSample (smp : BitVec 16) (s : State) : State :=
  let s1 := feed (sampleValue smp) s
  if s1.cnt = s1.active.n then blockEnd s1 else s1

/-- SAMPLE (R78); the checks in the order of 60_exceptions.md R90. -/
def execSample (rsv : BitVec 48) (smp : BitVec 16) (s : State) : Host.Outcome State Fault Refusal :=
  if rsv ≠ 0#48 then .next (reject .reservedNonzero s)
  else if s.ctrl ≠ .configured then .next (reject .notConfigured s)
  else .next (acceptSample smp s)

/-- END (R79): FLUSH_BLOCK, then FRAME_DISCARD. -/
def execEndRun (data : BitVec 64) (s : State) : Host.Outcome State Fault Refusal :=
  if data ≠ 0#64 then .next (reject .reservedNonzero s)
  else if s.ctrl ≠ .configured then .next (reject .notConfigured s)
  else .next (frameDiscard (flushBlock s))

end Sys2Proof.Machine
end

