-- ==== Sys2Proof/Machine/Dispatch.lean ====
section
/-! DEFINITION. One arm per command, each one call of its meaning (43_commands.md). -/

namespace Sys2Proof.Machine

def exec (i : Instr) (s : State) : Host.Outcome State Fault Refusal :=
  match i with
  | .nop data => Sys2Proof.Machine.execNop data s
  | .sample rsv smp => Sys2Proof.Machine.execSample rsv smp s
  | .endRun data => Sys2Proof.Machine.execEndRun data s
  | .configure data => Sys2Proof.Machine.execConfigure data s
  | .clearErr data => Sys2Proof.Machine.execClearErr data s
  | .wrRate fv => Sys2Proof.Machine.execWrRate fv s
  | .wrN rsv val => Sys2Proof.Machine.execWrN rsv val s
  | .wrMarkf fv => Sys2Proof.Machine.execWrMarkf fv s
  | .wrSpacef fv => Sys2Proof.Machine.execWrSpacef fv s
  | .read sel data => Sys2Proof.Machine.execRead sel data s

end Sys2Proof.Machine
end

