-- ==== Sys2Proof/Machine/Step.lean ====
section
/-! DEFINITION. One step of GTF: the host's next input, executed whole (20_memory.md R33, R34). -/

namespace Sys2Proof.Machine

/-- One step: an illegal word is rejected with ILLEGAL_OPCODE (30_encoding.md R45; 60_exceptions.md R90 check
1), a command runs, a reset event resets (70_reset_and_hazards.md R100), and with nothing to do GTF is idle (R99). -/
def step (s : State) : Host.Outcome State Fault Refusal :=
  match takeInput s with
  | none => .next (idle s)
  | some (.reset, s1) => .next (applyReset s1)
  | some (.command w, s1) =>
    match decode w with
    | .instr i => exec i s1
    | .illegalOpcode => .next (reject .illegalOpcode s1)

/-- The state with a command word placed first among the host's inputs, so that the next step takes it
(log entries 1 and 2). -/
def State.withFetchWord (s : State) (nbits w : Nat) : State :=
  { s with inbox := .command (tableWord nbits w) :: s.inbox }

end Sys2Proof.Machine
end

