-- ==== Sys2Proof/Machine/Assembler.lean ====
section
/-! DEFINITION. The assembler of 30_encoding.md R48 and R49: text lines to command words, with the
pseudo-instructions' expansions. It makes words only; what a word does is the machine's. Details of the
grammar that the rules leave open are log entry 13. -/

namespace Sys2Proof.Machine.Asm

/-! ### Statements and their words -/

/-- One assembler statement (R48) or pseudo-instruction (R49), its literals already read. -/
inductive Line where
  | nop
  | sample (v : Int)
  | endRun
  | configure
  | clearErr
  | wrRate (x : F64)
  | wrN (n : Nat)
  | wrMarkf (x : F64)
  | wrSpacef (x : F64)
  | read (sel : Nat)
  | cfg (rate : F64) (n : Nat) (mark space : F64)
  | presetAnswering
  | presetOriginating
  | samples (vs : List Int)
  | status
  deriving DecidableEq, Repr

/-- `sample <int>`: int in -32768 to 32767, else the assembler refuses (R48). -/
def sampleInstr (v : Int) : Option Instr :=
  if -32768 ≤ v ∧ v ≤ 32767 then some (.sample 0#48 (BitVec.ofInt 16 v)) else none

/-- `wr_n <uint>`: uint in 0 to 2^32-1, else the assembler refuses (R48). -/
def wrNInstr (n : Nat) : Option Instr :=
  if n < 2 ^ 32 then some (.wrN 0#32 (BitVec.ofNat 32 n)) else none

/-- `read <sel>`: a number 0 to 63 (R48). -/
def readInstr (sel : Nat) : Option Instr :=
  if sel < 64 then some (.read (BitVec.ofNat 6 sel) 0#64) else none

/-- The commands of a statement (R48) or of a pseudo-instruction (R49); none where the assembler refuses. -/
def expand : Line → Option (List Instr)
  | .nop => some [.nop 0#64]
  | .sample v => (sampleInstr v).map ([·])
  | .endRun => some [.endRun 0#64]
  | .configure => some [.configure 0#64]
  | .clearErr => some [.clearErr 0#64]
  | .wrRate x => some [.wrRate x]
  | .wrN n => (wrNInstr n).map ([·])
  | .wrMarkf x => some [.wrMarkf x]
  | .wrSpacef x => some [.wrSpacef x]
  | .read sel => (readInstr sel).map ([·])
  | .cfg rate n mark space =>
    (wrNInstr n).map fun wrN => [.wrRate rate, wrN, .wrMarkf mark, .wrSpacef space, .configure 0#64]
  | .presetAnswering => some [.wrMarkf 0x40A1620000000000#64, .wrSpacef 0x409FA40000000000#64]
  | .presetOriginating => some [.wrMarkf 0x4093D80000000000#64, .wrSpacef 0x4090B80000000000#64]
  | .samples vs => vs.mapM sampleInstr
  | .status => some [.read 0x00#6 0#64]

/-! ### Literals -/

/-- A decimal digit's value. -/
def digit? (c : Char) : Option Nat := if '0' ≤ c ∧ c ≤ '9' then some (c.toNat - '0'.toNat) else none

/-- A hexadecimal digit's value, in either case. -/
def hexDigit? (c : Char) : Option Nat :=
  if '0' ≤ c ∧ c ≤ '9' then some (c.toNat - '0'.toNat)
  else if 'a' ≤ c ∧ c ≤ 'f' then some (c.toNat - 'a'.toNat + 10)
  else if 'A' ≤ c ∧ c ≤ 'F' then some (c.toNat - 'A'.toNat + 10)
  else none

/-- One or more digits as a number in base `b`. -/
def digits? (b : Nat) (d : Char → Option Nat) : List Char → Option Nat
  | [] => none
  | cs => cs.foldl (fun acc c => acc.bind fun n => (d c).map fun v => b * n + v) (some 0)

/-- `<uint>`: decimal or `0x` hex (R48). -/
def uint? : List Char → Option Nat
  | '0' :: 'x' :: cs => digits? 16 hexDigit? cs
  | cs => digits? 10 digit? cs

/-- `<int>`: a `<uint>`, or one after a minus sign (R48). -/
def int? : List Char → Option Int
  | '-' :: cs => (uint? cs).map fun n => -(n : Int)
  | cs => (uint? cs).map fun n => (n : Int)

/-- The characters before the first one that satisfies `p`, and those after it if there is one. -/
def cutAt (p : Char → Bool) : List Char → List Char × Option (List Char)
  | [] => ([], none)
  | c :: cs =>
    if p c then ([], some cs)
    else
      let (a, b) := cutAt p cs
      (c :: a, b)

/-- The number `m * 10^e` converted to the nearest binary64 with roundTiesToEven (R48). -/
def decimalMagnitude (m : Nat) (e : Int) : Nat :=
  if 0 ≤ e then roundMagnitude (m * 10 ^ e.toNat * oneUnits) 1
  else roundMagnitude (m * oneUnits) (10 ^ (-e).toNat)

/-- The exponent of a decimal literal: decimal digits after an optional sign. DESIGN CHOICE: R48 gives no exponent
form; this one is the model's (log entry 13). -/
def exponent? : List Char → Option Int
  | '-' :: ds => (digits? 10 digit? ds).map fun n => -(n : Int)
  | '+' :: ds => (digits? 10 digit? ds).map fun n => (n : Int)
  | ds => (digits? 10 digit? ds).map fun n => (n : Int)

/-- An unsigned decimal literal: digits, an optional point with digits, an optional `e` or `E` with an exponent.
DESIGN CHOICE: R48 says "a decimal literal" and no more, so this form is the model's (log entry 13). -/
def decimal? (cs : List Char) : Option Nat :=
  let (mantissa, expo) := cutAt (fun c => c == 'e' || c == 'E') cs
  let (whole, frac) := cutAt (· == '.') mantissa
  let fracDigits := frac.getD []
  let shown := if frac.isSome && fracDigits.isEmpty then none else digits? 10 digit? (whole ++ fracDigits)
  let scale := match expo with
    | none => some 0
    | some x => exponent? x
  if whole.isEmpty then none
  else shown.bind fun m => scale.map fun e => decimalMagnitude m (e - fracDigits.length)

/-- `<real>` (R48): `0x` and sixteen hex digits, `inf`, `-inf`, `nan`, or a decimal literal. -/
def real? (cs : List Char) : Option F64 :=
  if cs = "inf".toList then some 0x7FF0000000000000#64
  else if cs = "-inf".toList then some 0xFFF0000000000000#64
  else if cs = "nan".toList then some 0x7FF8000000000000#64
  else
    match cs with
    | '0' :: 'x' :: hs => if hs.length = 16 then (digits? 16 hexDigit? hs).map (BitVec.ofNat 64) else none
    | '-' :: ds => (decimal? ds).map (pack true)
    | ds => (decimal? ds).map (pack false)

/-- The selector names of 10_state.md R26. -/
def selectorNames : List (String × Nat) :=
  [("STATUS", 0x00), ("STG_RATE", 0x01), ("STG_N", 0x02), ("STG_MARKF", 0x03), ("STG_SPACEF", 0x04),
   ("RATE", 0x05), ("N", 0x06), ("MARKF", 0x07), ("SPACEF", 0x08), ("CNT", 0x09), ("FRAME", 0x0A)] ++
  [("Q1.M", 0x10), ("Q2.M", 0x11), ("COEFF.M", 0x12), ("COS.M", 0x13), ("SIN.M", 0x14), ("K.M", 0x15),
   ("KINT.M", 0x16), ("MAG.M", 0x17), ("REAL.M", 0x18), ("IMAG.M", 0x19)] ++
  [("Q1.S", 0x20), ("Q2.S", 0x21), ("COEFF.S", 0x22), ("COS.S", 0x23), ("SIN.S", 0x24), ("K.S", 0x25),
   ("KINT.S", 0x26), ("MAG.S", 0x27), ("REAL.S", 0x28), ("IMAG.S", 0x29)]

/-- `<name>` or `<sel>` (R48). -/
def selector? (cs : List Char) : Option Nat :=
  match selectorNames.find? (fun p => p.1.toList == cs) with
  | some p => some p.2
  | none => uint? cs

/-! ### Lines -/

/-- A space, a tab or a carriage return. -/
def isBlank (c : Char) : Bool := c == ' ' || c == '\t' || c == '\r'

/-- Blanks removed at both ends. -/
def trim (cs : List Char) : List Char := ((cs.dropWhile isBlank).reverse.dropWhile isBlank).reverse

/-- The pieces between the characters that satisfy `p`. -/
def splitOn (p : Char → Bool) : List Char → List (List Char)
  | [] => [[]]
  | c :: cs =>
    match splitOn p cs with
    | [] => [[]]
    | piece :: rest => if p c then [] :: piece :: rest else (c :: piece) :: rest

/-- The operands after a mnemonic: none, or pieces between commas. -/
def operands (cs : List Char) : List (List Char) :=
  if (trim cs).isEmpty then [] else (splitOn (· == ',') cs).map trim

/-- A line without its comment and outer blanks: its statement; none where the assembler refuses (R48, R49). -/
def parseStatement (cs : List Char) : Option Line :=
  let (word, rest) := cutAt isBlank cs
  let ops := operands (rest.getD [])
  if word = "nop".toList ∧ ops = [] then some .nop
  else if word = "end".toList ∧ ops = [] then some .endRun
  else if word = "configure".toList ∧ ops = [] then some .configure
  else if word = "clear_err".toList ∧ ops = [] then some .clearErr
  else if word = "status".toList ∧ ops = [] then some .status
  else if word = "preset".toList ∧ ops = ["answering".toList] then some .presetAnswering
  else if word = "preset".toList ∧ ops = ["originating".toList] then some .presetOriginating
  else if word = "samples".toList ∧ ops ≠ [] then (ops.mapM int?).map .samples
  else
    match ops with
    | [a] =>
      if word = "sample".toList then (int? a).map .sample
      else if word = "wr_rate".toList then (real? a).map .wrRate
      else if word = "wr_n".toList then (uint? a).map .wrN
      else if word = "wr_markf".toList then (real? a).map .wrMarkf
      else if word = "wr_spacef".toList then (real? a).map .wrSpacef
      else if word = "read".toList then (selector? a).map .read
      else none
    | [r, n, m, s] =>
      if word = "cfg".toList then
        (real? r).bind fun rate => (uint? n).bind fun size => (real? m).bind fun mark =>
          (real? s).map fun space => .cfg rate size mark space
      else none
    | _ => none

/-- One text line: its commands; an empty line or a comment has none (R48: `;` starts a comment). -/
def assembleLine (cs : List Char) : Option (List Instr) :=
  let code := trim (cutAt (· == ';') cs).1
  if code.isEmpty then some [] else (parseStatement code).bind expand

/-- A text, one statement per line: its command words, none if the assembler refuses a line (R48). -/
def assemble (text : List Char) : Option (List CommandWord) :=
  ((splitOn (· == '\n') text).mapM assembleLine).map fun lines => lines.flatten.map encode

end Sys2Proof.Machine.Asm
end

