-- ==== Sys2Proof/Safety.lean ====
section
/-! DEFINITION. What counts as a sound state and a safe run: the invariants of 10_state.md R27, and that no step
ever stops (60_exceptions.md R87). -/

namespace Sys2Proof.Machine

/-- The invariants GTF keeps between any two commands (R27). -/
structure State.Inv (s : State) : Prop where
  /-- STATE is in 0, 1, 2. -/
  control : s.ctrl.code.toNat ≤ 2
  /-- If STATE = CONFIGURED then 1 <= N and 0 <= CNT < N. -/
  block : s.ctrl = .configured → 1 ≤ s.active.n.toNat ∧ s.cnt.toNat < s.active.n.toNat
  /-- 0 <= FCNT <= 9. -/
  frameCount : s.fcnt.toNat ≤ 9
  /-- FBITS[j] = 0 for every j >= FCNT. -/
  frameCells : ∀ j, s.fcnt.toNat ≤ j → s.fbits.getLsbD j = false
  /-- If CNT = 0 then Q1.f = Q2.f = +0.0 for both filters. -/
  accumulators : s.cnt = 0#32 →
    s.mark.q1 = posZero ∧ s.mark.q2 = posZero ∧ s.space.q1 = posZero ∧ s.space.q2 = posZero
  /-- If STATE is UNCONFIGURED then CNT = 0, FULLBLK = 0 and FCNT = 0. -/
  beforeConfigure : s.ctrl = .unconfigured → s.cnt = 0#32 ∧ s.fullblk = false ∧ s.fcnt = 0#4

/-- A step that does not stop: GTF "never stops or hangs on an error" (R87). -/
def StepsOn (s : State) : Prop := ∃ t, step s = .next t

end Sys2Proof.Machine
end

