-- ==== Sys2Proof/Certificates/Slice0/Obligations.lean ====
section
/-! DEFINITION. The statements about the model, and the notions they are written in. A statement never names a
value of a free NaN pattern: where an operation's result could be a NaN, it says that SOME family of NaN patterns
makes the formula's value. -/

namespace Sys2Proof.Claims

open Sys2Proof.Machine

/-! ### Notions of the encoding and the checks (30_encoding.md, 60_exceptions.md) -/

/-- The opcodes of 30_encoding.md R44. -/
def legalOpcode (opc : BitVec 8) : Bool :=
  decide (opc.toNat ≤ 0x04) || (decide (0x10 ≤ opc.toNat) && decide (opc.toNat ≤ 0x13)) ||
    (decide (0x40 ≤ opc.toNat) && decide (opc.toNat ≤ 0x7F))

/-- READ's opcodes, 0x40 to 0x7F (R43). -/
def readOpcode (opc : BitVec 8) : Bool := decide (0x40 ≤ opc.toNat) && decide (opc.toNat ≤ 0x7F)

/-- The DATA bits that must be zero, by opcode (R46): S16 63:16, U32 63:32, F64 none, Z and RD 63:0. -/
def reservedMask (opc : BitVec 8) : BitVec 64 :=
  if opc = 0x01#8 then 0xFFFFFFFFFFFF0000#64
  else if opc = 0x11#8 then 0xFFFFFFFF00000000#64
  else if opc = 0x10#8 ∨ opc = 0x12#8 ∨ opc = 0x13#8 then 0#64
  else 0xFFFFFFFFFFFFFFFF#64

/-- The READ opcodes of the unassigned selectors 0x0B to 0x0F, 0x1A to 0x1F and 0x2A to 0x3F (10_state.md R26). -/
def unassignedRead (opc : BitVec 8) : Bool :=
  (decide (0x4B ≤ opc.toNat) && decide (opc.toNat ≤ 0x4F)) ||
    (decide (0x5A ≤ opc.toNat) && decide (opc.toNat ≤ 0x5F)) ||
    (decide (0x6A ≤ opc.toNat) && decide (opc.toNat ≤ 0x7F))

/-- CONFIGURE's `valid(x)` in the words of 43_commands.md R80: not NaN, not +inf, x > +0.0. -/
def positiveReal (x : F64) : Bool := !isNaN x && x != 0x7FF0000000000000#64 && !fge 0#64 x

/-- CONFIGURE's validation of the staged values (R80). -/
def stagedValid (c : ConfigRegs) : Bool :=
  decide (1 ≤ c.n.toNat) && positiveReal c.rate && positiveReal c.markf && positiveReal c.spacef

/-- The first check of 60_exceptions.md R90 that a command word fails, if it fails one. -/
def failedCheck (s : State) (w : CommandWord) : Option ErrCode :=
  let opc := w.extractLsb' 64 8
  let data := w.extractLsb' 0 64
  if legalOpcode opc = false then some .illegalOpcode
  else if data &&& reservedMask opc ≠ 0#64 then some .reservedNonzero
  else if (opc = 0x01#8 ∨ opc = 0x02#8) ∧ s.ctrl ≠ .configured then some .notConfigured
  else if opc = 0x03#8 ∧ stagedValid s.staging = false then some .badConfig
  else if unassignedRead opc = true then some .badSelect
  else none

/-- The command CONFIGURE's one well-formed word. -/
def configureWord : CommandWord := 0x030000000000000000#72

/-! ### Notions of the filters (40_tone_filter.md) -/

/-- A family of patterns that are all NaNs. -/
def AllNaN (nan : Nat → F64) : Prop := ∀ j, isNaN (nan j) = true

/-- The same f64: the same encoding, or both a NaN (00_scope.md R5: the pattern of a NaN is open). -/
def SameF64 (x y : F64) : Prop := x = y ∨ (isNaN x = true ∧ isNaN y = true)

/-- `q0` is `((COEFF * Q1) - Q2) + s`, each operation rounded once (R56). -/
def StepValue (f : Filter) (s q0 : F64) : Prop :=
  ∃ nan, AllNaN nan ∧ q0 = fadd (nan 2) (fsub (nan 1) (fmul (nan 0) f.coeff f.q1) f.q2) s

/-- `m` is `((Q1 * Q1) + (Q2 * Q2)) - ((Q1 * Q2) * COEFF)`, each operation rounded once (R58). -/
def MagValue (f : Filter) (m : F64) : Prop :=
  ∃ nan, AllNaN nan ∧
    m = fsub (nan 5) (fadd (nan 2) (fmul (nan 0) f.q1 f.q1) (fmul (nan 1) f.q2 f.q2))
      (fmul (nan 4) (fmul (nan 3) f.q1 f.q2) f.coeff)

/-- `r` is `Q1 - (Q2 * COS)` (R59). -/
def RealValue (f : Filter) (r : F64) : Prop :=
  ∃ nan, AllNaN nan ∧ r = fsub (nan 1) f.q1 (fmul (nan 0) f.q2 f.cos)

/-- `i` is `Q2 * SIN` (R59). -/
def ImagValue (f : Filter) (i : F64) : Prop := ∃ nan, AllNaN nan ∧ i = fmul (nan 0) f.q2 f.sin

/-- The registers of a filter constructed by DERIVE for `n`, `freq` and `rate` (R51 to R55). -/
def Constructed (f : Filter) (n : BitVec 32) (freq rate : F64) : Prop :=
  ∃ nan omega, AllNaN nan ∧
    f.k = fdiv (nan 1) (fmul (nan 0) (u32ToF64 n) freq) rate ∧
    omega = fdiv (nan 4) (fmul (nan 3) (fmul (nan 2) 0x4000000000000000#64 0x400921FB54442D18#64) f.k) (u32ToF64 n) ∧
    SameF64 f.cos (Config.cos64 omega) ∧ SameF64 f.sin (Config.sin64 omega) ∧
    f.coeff = fmul (nan 5) 0x4000000000000000#64 f.cos ∧
    f.kint = truncSatU64 f.k ∧ f.q1 = 0#64 ∧ f.q2 = 0#64

/-- Both filters with +0.0 in their accumulators. -/
def cleared (f : Filter) : Filter := { f with q1 := 0#64, q2 := 0#64 }

/-- The coefficient registers of a filter are the same (R18). -/
def SameCoefficients (f g : Filter) : Prop :=
  g.coeff = f.coeff ∧ g.cos = f.cos ∧ g.sin = f.sin ∧ g.k = f.k ∧ g.kint = f.kint

/-- The registers of a filter are the same; only the model's draw counter may differ (log entry 3). -/
def SameRegisters (f g : Filter) : Prop := SameCoefficients f g ∧ g.q1 = f.q1 ∧ g.q2 = f.q2

/-! ### Notions of the frame decoder (42_frame_decoder.md) -/

/-- What a complete frame `c` appends to CHAR_OUT (R70, R71, R73, R75). -/
def frameChars (c : Nat → Bool) : List (BitVec 7) :=
  if c 0 = false ∧ c 9 = true then
    [BitVec.ofNat 7 (((List.range 7).map fun i => if c (1 + i) then 2 ^ i else 0).sum)]
  else []

/-- The frame register and CHAR_OUT after the bit `b` enters them (R68). -/
def FramePush (fbits : BitVec 10) (fcnt : BitVec 4) (chars : List (BitVec 7)) (b : Bool)
    (fbits' : BitVec 10) (fcnt' : BitVec 4) (chars' : List (BitVec 7)) : Prop :=
  if fcnt = 9#4 then
    fbits' = 0#10 ∧ fcnt' = 0#4 ∧ chars' = chars ++ frameChars fun j => if j = 9 then b else fbits.getLsbD j
  else
    (∀ j, j < 10 → fbits'.getLsbD j = if j = fcnt.toNat then b else fbits.getLsbD j) ∧
      fcnt' = fcnt + 1#4 ∧ chars' = chars

/-- The batch reading of a run's bits: consecutive, non-overlapping frames of ten, the rest dropped (R69, R76). -/
def decodeBits : List Bool → List (BitVec 7)
  | c0 :: c1 :: c2 :: c3 :: c4 :: c5 :: c6 :: c7 :: c8 :: c9 :: rest =>
    frameChars (fun j => [c0, c1, c2, c3, c4, c5, c6, c7, c8, c9].getD j false) ++ decodeBits rest
  | _ => []

/-- Pushing a sequence of bits, earliest first. -/
def pushAll (bits : List Bool) (s : State) : State := bits.foldl (fun acc b => asmPush b acc) s

/-! ### Notions of the whole machine -/

/-- The state of the decode path is the same: everything but RESP_OUT and the registers no rule of the decode
path reads (COS, SIN, K, KINT; R54, R59). -/
def SameDecodePath (s t : State) : Prop :=
  t.ctrl = s.ctrl ∧ t.err = s.err ∧ t.staging = s.staging ∧ t.active = s.active ∧
    t.mark.coeff = s.mark.coeff ∧ t.mark.q1 = s.mark.q1 ∧ t.mark.q2 = s.mark.q2 ∧ t.mark.draws = s.mark.draws ∧
    t.space.coeff = s.space.coeff ∧ t.space.q1 = s.space.q1 ∧ t.space.q2 = s.space.q2 ∧
    t.space.draws = s.space.draws ∧ t.cnt = s.cnt ∧ t.fullblk = s.fullblk ∧ t.fbits = s.fbits ∧
    t.fcnt = s.fcnt ∧ t.bitOut = s.bitOut ∧ t.charOut = s.charOut ∧ t.inbox = s.inbox

/-- The SAMPLE commands of a sequence of samples, as the host sends them. -/
def sampleInputs (smps : List (BitVec 16)) : List HostInput :=
  smps.map fun smp => .command (0x01#8 ++ (0#48 ++ smp))

/-- `r` is a nearest finite binary64 value to `num / den` units of 2^-1074, and the one with the even
significand when two are equally near (00_scope.md R7). -/
def NearestEven (num : Int) (den : Nat) (r : F64) : Prop :=
  ∀ x : F64, isFinite x = true →
    |num - exact r * den| ≤ |num - exact x * den| ∧
      (|num - exact r * den| = |num - exact x * den| → exact x = exact r ∨ magnitude r % 2 = 0)

/-- The magnitude, in units of 2^-1074, from which rounding gives an infinity: halfway past the largest finite
value. -/
def overflowUnits : Nat := (2 ^ 54 - 1) * 2 ^ 2044

end Sys2Proof.Claims

open Sys2Proof Sys2Proof.Machine Sys2Proof.Claims

/-! ## Encoding -/

/-- Decoding an encoded command gives it back, with every operand, and the table's reading of that word too when
its reserved bits are zero. -/
def Obligations.DecodeOfEncodeIsTheCommand : Prop :=
  ∀ i : Instr, decode (encode i) = .instr i ∧
    (i.wellFormed = true → decodeTableWord 72 (encode i).toNat = some i)

/-- Each legal word has one meaning: the command it decodes to encodes to it. -/
def Obligations.EncodeOfDecodeIsTheWord : Prop :=
  ∀ (w : CommandWord) (i : Instr), decode w = .instr i → encode i = w

/-- 30_encoding.md R45: the illegal opcodes, and that an illegal command is rejected with no other effect. -/
def Obligations.IllegalOpcodesAreRejected : Prop :=
  ∀ w : CommandWord,
    (decode w = .illegalOpcode ↔
      let opc := (w.extractLsb' 64 8).toNat
      (0x05 ≤ opc ∧ opc ≤ 0x0F) ∨ (0x14 ≤ opc ∧ opc ≤ 0x3F) ∨ 0x80 ≤ opc) ∧
    (decode w = .illegalOpcode → ∀ (s : State) (rest : List HostInput), s.inbox = .command w :: rest →
      step s = .next { s with inbox := rest, err := .illegalOpcode })

/-- Words written out from the encodings of 30_encoding.md R44 and R48 decode to their commands. -/
def Obligations.WrittenOutWordsDecode : Prop :=
  decode 0x000000000000000000#72 = .instr (.nop 0#64) ∧
  decode 0x01000000000000FFFF#72 = .instr (.sample 0#48 (BitVec.ofInt 16 (-1))) ∧
  decode 0x020000000000000000#72 = .instr (.endRun 0#64) ∧
  decode 0x030000000000000000#72 = .instr (.configure 0#64) ∧
  decode 0x040000000000000000#72 = .instr (.clearErr 0#64) ∧
  decode 0x1040BF400000000000#72 = .instr (.wrRate 0x40BF400000000000#64) ∧
  decode 0x1100000000000000CD#72 = .instr (.wrN 0#32 205#32) ∧
  decode 0x1240A1620000000000#72 = .instr (.wrMarkf 0x40A1620000000000#64) ∧
  decode 0x13409FA40000000000#72 = .instr (.wrSpacef 0x409FA40000000000#64) ∧
  decode 0x570000000000000000#72 = .instr (.read 0x17#6 0#64) ∧
  decode 0x7F0000000000000000#72 = .instr (.read 0x3F#6 0#64) ∧
  decode 0x140000000000000000#72 = .illegalOpcode ∧
  decode 0x800000000000000000#72 = .illegalOpcode

/-- 30_encoding.md R46: a command with a nonzero reserved bit is rejected with RESERVED_NONZERO and has no other
effect, except that a READ still appends one response word, 0. -/
def Obligations.NonzeroReservedBitsAreRejected : Prop :=
  ∀ (s : State) (w : CommandWord) (rest : List HostInput), s.inbox = .command w :: rest →
    legalOpcode (w.extractLsb' 64 8) = true →
    w.extractLsb' 0 64 &&& reservedMask (w.extractLsb' 64 8) ≠ 0#64 →
    step s = .next
      { s with
        inbox := rest
        err := .reservedNonzero
        respOut := if readOpcode (w.extractLsb' 64 8) = true then s.respOut ++ [0#64] else s.respOut }

/-! ## One step -/

/-- The next command word, when it decodes to a command, runs that command on the state without the word. -/
def Obligations.StepRunsTheDecodedCommand : Prop :=
  ∀ (s : State) (w : CommandWord) (rest : List HostInput) (i : Instr),
    s.inbox = .command w :: rest → decode w = .instr i → step s = exec i { s with inbox := rest }

/-- 60_exceptions.md R99: with nothing to execute GTF holds its state unchanged. -/
def Obligations.IdleHoldsTheState : Prop := ∀ s : State, s.inbox = [] → step s = .next s

/-- 10_state.md R28 and 70_reset_and_hazards.md R101: what the reset event leaves, that a model starts with
empty channels, and that the state after power-up is the state after reset (R100). That the host's later inputs stay
is the model's choice (log entry 6); the last clause's whole-state equality also rests on the draw counters, which the
event keeps (log entries 3 and 6). -/
def Obligations.ResetEventLeavesResetValues : Prop :=
  (∀ (s : State) (rest : List HostInput), s.inbox = .reset :: rest →
    ∃ t, step s = .next t ∧
      t.ctrl = .unconfigured ∧ t.err = .noError ∧
      t.staging = { rate := 0#64, n := 160#32, markf := 0#64, spacef := 0#64 } ∧
      t.active = { rate := 0#64, n := 0#32, markf := 0#64, spacef := 0#64 } ∧
      SameRegisters (Filter.zero 0) t.mark ∧ SameRegisters (Filter.zero 0) t.space ∧
      t.cnt = 0#32 ∧ t.fullblk = false ∧ t.fbits = 0#10 ∧ t.fcnt = 0#4 ∧
      t.bitOut = s.bitOut ∧ t.charOut = s.charOut ∧ t.respOut = s.respOut ∧ t.inbox = rest) ∧
  (∀ d, (Filter.zero d).coeff = 0#64 ∧ (Filter.zero d).cos = 0#64 ∧ (Filter.zero d).sin = 0#64 ∧
    (Filter.zero d).k = 0#64 ∧ (Filter.zero d).kint = 0#64 ∧ (Filter.zero d).q1 = 0#64 ∧
    (Filter.zero d).q2 = 0#64) ∧
  State.reset.bitOut = [] ∧ State.reset.charOut = [] ∧ State.reset.respOut = [] ∧
  step { State.reset with inbox := [.reset] } = .next State.reset

/-- 20_memory.md R34: a step takes the host's next input and no other. -/
def Obligations.StepTakesOneInputInOrder : Prop :=
  ∀ s t : State, step s = .next t → t.inbox = s.inbox.tail

/-- 60_exceptions.md R87: "GTF never stops or hangs on an error"; every step answers a next state. -/
def Obligations.EveryStepGoesOn : Prop := ∀ s : State, StepsOn s

/-- 10_state.md R23: nothing on a channel is changed or removed; and a step appends at most one item to each
channel, a character only beside a bit. -/
def Obligations.ChannelsOnlyGrow : Prop :=
  ∀ s t : State, step s = .next t →
    ∃ bits chars resps, t.bitOut = s.bitOut ++ bits ∧ t.charOut = s.charOut ++ chars ∧
      t.respOut = s.respOut ++ resps ∧ bits.length ≤ 1 ∧ chars.length ≤ bits.length ∧ resps.length ≤ 1

/-- 43_commands.md R86: every READ appends exactly one word, and no other input appends one. -/
def Obligations.ReadsAndResponsesPair : Prop :=
  ∀ (s t : State) (h : HostInput) (rest : List HostInput), s.inbox = h :: rest → step s = .next t →
    (∀ w, h = .command w → readOpcode (w.extractLsb' 64 8) = true → ∃ v, t.respOut = s.respOut ++ [v]) ∧
    ((∀ w, h = .command w → readOpcode (w.extractLsb' 64 8) = false) → t.respOut = s.respOut)

/-! ## Rejection and the error register -/

/-- 60_exceptions.md R87 and R90: the first check that fails decides the code, and the rejected command has the
listed effects and no others. -/
def Obligations.FirstFailedCheckDecides : Prop :=
  ∀ (s : State) (w : CommandWord) (rest : List HostInput) (c : ErrCode),
    s.inbox = .command w :: rest → failedCheck s w = some c →
    step s = .next
      { s with
        inbox := rest
        err := c
        ctrl := if c = .badConfig then .cfgError else s.ctrl
        respOut := if readOpcode (w.extractLsb' 64 8) = true then s.respOut ++ [0#64] else s.respOut }

/-- 60_exceptions.md R89: ERR holds the most recent code until CLEAR_ERR or reset. -/
def Obligations.ErrIsStickyUntilCleared : Prop :=
  ∀ s t : State, step s = .next t →
    (s.inbox = [] → t.err = s.err) ∧
    (∀ rest, s.inbox = .reset :: rest → t.err = .noError) ∧
    (∀ w rest, s.inbox = .command w :: rest →
      (∀ c, failedCheck s w = some c → t.err = c) ∧
      (failedCheck s w = none → t.err = if w.extractLsb' 64 8 = 0x04#8 then .noError else s.err))

/-- 10_state.md R14: the values of STATE, where they are read, what moves STATE, and what it admits. -/
def Obligations.ControlStateIsMovedByConfigureAndReset : Prop :=
  (CtrlState.unconfigured.code = 0#2 ∧ CtrlState.configured.code = 1#2 ∧ CtrlState.cfgError.code = 2#2) ∧
  State.reset.ctrl = .unconfigured ∧
  (∀ s, (statusView s).extractLsb' 0 2 = s.ctrl.code) ∧
  (∀ s t : State, step s = .next t →
    (s.inbox = [] → t.ctrl = s.ctrl) ∧
    (∀ rest, s.inbox = .reset :: rest → t.ctrl = .unconfigured) ∧
    (∀ w rest, s.inbox = .command w :: rest →
      t.ctrl = if w = configureWord then (if stagedValid s.staging then .configured else .cfgError) else s.ctrl)) ∧
  (∀ (s : State) (smp : BitVec 16),
    (s.ctrl ≠ .configured →
      exec (.sample 0#48 smp) s = .next { s with err := .notConfigured } ∧
      exec (.endRun 0#64) s = .next { s with err := .notConfigured }) ∧
    (s.ctrl = .configured →
      (∃ t, exec (.sample 0#48 smp) s = .next t ∧ t.err = s.err) ∧
      ∃ t, exec (.endRun 0#64) s = .next t ∧ t.err = s.err))

/-! ## Invariants -/

/-- The state after reset satisfies the invariants of 10_state.md R27. -/
def Obligations.InvariantsHoldAtReset : Prop := State.reset.Inv

/-- Every step keeps the invariants of 10_state.md R27. -/
def Obligations.EveryStepKeepsTheInvariants : Prop :=
  ∀ s t : State, s.Inv → step s = .next t → t.Inv

/-- 10_state.md R17 and R18: only a successful CONFIGURE and the reset event write the active configuration and
the coefficient registers. -/
def Obligations.OnlyConfigureLoadsTheConfiguration : Prop :=
  ∀ (s t : State) (w : CommandWord) (rest : List HostInput), s.inbox = .command w :: rest → step s = .next t →
    (w ≠ configureWord ∨ stagedValid s.staging = false) →
    t.active = s.active ∧ SameCoefficients s.mark t.mark ∧ SameCoefficients s.space t.space

/-- 70_reset_and_hazards.md R105 and 10_state.md R16: only the four write commands and the reset event write the
staging registers, and a write command writes nothing but staging and, when rejected, ERR. -/
def Obligations.OnlyWriteCommandsChangeStaging : Prop :=
  ∀ (s t : State) (w : CommandWord) (rest : List HostInput), s.inbox = .command w :: rest → step s = .next t →
    (¬(0x10 ≤ (w.extractLsb' 64 8).toNat ∧ (w.extractLsb' 64 8).toNat ≤ 0x13) → t.staging = s.staging) ∧
    (0x10 ≤ (w.extractLsb' 64 8).toNat ∧ (w.extractLsb' 64 8).toNat ≤ 0x13 →
      t = { s with inbox := rest, staging := t.staging, err := t.err })

/-- Nothing of RESP_OUT, COS, SIN, K and KINT reaches the decode path: states that differ only there step to
states that differ only there. -/
def Obligations.DiagnosticsDoNotReachTheDecodePath : Prop :=
  ∀ s t s' t' : State, SameDecodePath s t → step s = .next s' → step t = .next t' → SameDecodePath s' t'

/-! ## The commands -/

/-- 43_commands.md R77: NOP changes nothing; a nonzero DATA is rejected. -/
def Obligations.NopChangesNothing : Prop :=
  encode (.nop 0#64) = 0x000000000000000000#72 ∧
  ∀ s : State, exec (.nop 0#64) s = .next s ∧
    ∀ data, data ≠ 0#64 → exec (.nop data) s = .next { s with err := .reservedNonzero }

/-- 43_commands.md R82, R83, R85 (and WR_MARKF's effect): a write command stores its operand in its staging
register and changes nothing else; only WR_N has reserved bits. -/
def Obligations.WriteCommandsStageTheirOperand : Prop :=
  (∀ fv, encode (.wrRate fv) = 0x10#8 ++ fv ∧ encode (.wrMarkf fv) = 0x12#8 ++ fv ∧
    encode (.wrSpacef fv) = 0x13#8 ++ fv) ∧
  (∀ val, encode (.wrN 0#32 val) = 0x11#8 ++ (0#32 ++ val)) ∧
  ∀ s : State,
    (∀ fv, exec (.wrRate fv) s = .next { s with staging := { s.staging with rate := fv } } ∧
      exec (.wrMarkf fv) s = .next { s with staging := { s.staging with markf := fv } } ∧
      exec (.wrSpacef fv) s = .next { s with staging := { s.staging with spacef := fv } }) ∧
    (∀ val, exec (.wrN 0#32 val) s = .next { s with staging := { s.staging with n := val } }) ∧
    (∀ rsv val, rsv ≠ 0#32 → exec (.wrN rsv val) s = .next { s with err := .reservedNonzero })

/-- 43_commands.md R81: CLEAR_ERR clears ERR and nothing else; a nonzero DATA is rejected. -/
def Obligations.ClearErrClearsOnlyErr : Prop :=
  encode (.clearErr 0#64) = 0x040000000000000000#72 ∧
  ∀ s : State, exec (.clearErr 0#64) s = .next { s with err := .noError } ∧
    ∀ data, data ≠ 0#64 → exec (.clearErr data) s = .next { s with err := .reservedNonzero }

/-- 43_commands.md R80: CONFIGURE with valid staged values loads them, constructs both filters and starts a
fresh run; the error register and the channels are unchanged. -/
def Obligations.ConfigureConstructsBothFilters : Prop :=
  ∀ s : State, stagedValid s.staging = true →
    ∃ t, exec (.configure 0#64) s = .next t ∧
      Constructed t.mark s.staging.n s.staging.markf s.staging.rate ∧
      Constructed t.space s.staging.n s.staging.spacef s.staging.rate ∧
      t = { s with
        ctrl := .configured
        active := s.staging
        mark := t.mark
        space := t.space
        cnt := 0#32
        fullblk := false
        fbits := 0#10
        fcnt := 0#4 }

/-- 43_commands.md R80 and 60_exceptions.md R91: a failed CONFIGURE moves STATE to CFG_ERROR and changes nothing
else but ERR; a nonzero DATA is rejected before the validation. -/
def Obligations.FailedConfigureConstructsNothing : Prop :=
  ∀ s : State,
    (stagedValid s.staging = false →
      exec (.configure 0#64) s = .next { s with ctrl := .cfgError, err := .badConfig }) ∧
    ∀ data, data ≠ 0#64 → exec (.configure data) s = .next { s with err := .reservedNonzero }

/-- 43_commands.md R80's example (V-D1, V-D2), under P-COS-CR: the small configuration. -/
def Obligations.SmallConfigurationCoefficients : Prop :=
  PCosCr → ∀ s : State,
    s.staging = { rate := 0x4010000000000000#64, n := 2#32, markf := 0x4010000000000000#64,
                  spacef := 0x4000000000000000#64 } →
    ∃ t, exec (.configure 0#64) s = .next t ∧ t.ctrl = .configured ∧
      t.mark.coeff = 0x4000000000000000#64 ∧ t.mark.cos = 0x3FF0000000000000#64 ∧
      t.mark.sin = 0xBCB1A62633145C07#64 ∧ t.mark.k = 0x4000000000000000#64 ∧ t.mark.kint = 2#64 ∧
      t.space.coeff = 0xC000000000000000#64 ∧ t.space.cos = 0xBFF0000000000000#64 ∧
      t.space.sin = 0x3CA1A62633145C07#64 ∧ t.space.k = 0x3FF0000000000000#64 ∧ t.space.kint = 1#64

/-- 40_tone_filter.md R51 to R54 (V-D11), under P-COS-NAN: a bin index that overflows to +inf saturates KINT and
makes COS, SIN and COEFF NaN, in either filter. -/
def Obligations.InfiniteBinGivesNaNCoefficients : Prop :=
  PCosNan → ∀ (s t : State), stagedValid s.staging = true → exec (.configure 0#64) s = .next t →
    (t.mark.k = 0x7FF0000000000000#64 →
      t.mark.kint = 0xFFFFFFFFFFFFFFFF#64 ∧ isNaN t.mark.cos = true ∧ isNaN t.mark.sin = true ∧
        isNaN t.mark.coeff = true) ∧
    (t.space.k = 0x7FF0000000000000#64 →
      t.space.kint = 0xFFFFFFFFFFFFFFFF#64 ∧ isNaN t.space.cos = true ∧ isNaN t.space.sin = true ∧
        isNaN t.space.coeff = true)

/-- 43_commands.md R78 inside a block: SAMPLE steps both filters with the same sample and counts it; nothing
else changes. -/
def Obligations.SampleFeedsBothFilters : Prop :=
  ∀ (s : State) (smp : BitVec 16), s.ctrl = .configured → s.cnt + 1#32 ≠ s.active.n →
    ∃ t qM qS, exec (.sample 0#48 smp) s = .next t ∧
      StepValue s.mark (i16ToF64 smp) qM ∧ StepValue s.space (i16ToF64 smp) qS ∧
      t = { s with
        mark := { s.mark with q1 := qM, q2 := s.mark.q1, draws := t.mark.draws }
        space := { s.space with q1 := qS, q2 := s.space.q1, draws := t.space.draws }
        cnt := s.cnt + 1#32 }

/-- 43_commands.md R78 at a block's end: the bit is decided from the magnitudes of the stepped filters before
they are reset, goes to BIT_OUT and enters the frame register; CNT returns to 0 and FULLBLK is set. -/
def Obligations.SampleEndingABlockPushesItsBit : Prop :=
  ∀ (s : State) (smp : BitVec 16), s.ctrl = .configured → s.cnt + 1#32 = s.active.n →
    ∃ t qM qS mM mS, exec (.sample 0#48 smp) s = .next t ∧
      StepValue s.mark (i16ToF64 smp) qM ∧ StepValue s.space (i16ToF64 smp) qS ∧
      MagValue { s.mark with q1 := qM, q2 := s.mark.q1 } mM ∧
      MagValue { s.space with q1 := qS, q2 := s.space.q1 } mS ∧
      FramePush s.fbits s.fcnt s.charOut (fge mM mS) t.fbits t.fcnt t.charOut ∧
      t = { s with
        mark := { cleared s.mark with draws := t.mark.draws }
        space := { cleared s.space with draws := t.space.draws }
        cnt := 0#32
        fullblk := true
        fbits := t.fbits
        fcnt := t.fcnt
        bitOut := s.bitOut ++ [fge mM mS]
        charOut := t.charOut }

/-- 43_commands.md R78 and R79: SAMPLE and END outside CONFIGURED, and with nonzero reserved bits, are rejected
with the code of the first failed check and no other effect. -/
def Obligations.SampleAndEndRejections : Prop :=
  ∀ s : State,
    (∀ rsv smp, rsv ≠ 0#48 → exec (.sample rsv smp) s = .next { s with err := .reservedNonzero }) ∧
    (∀ data, data ≠ 0#64 → exec (.endRun data) s = .next { s with err := .reservedNonzero }) ∧
    (s.ctrl ≠ .configured →
      (∀ smp, exec (.sample 0#48 smp) s = .next { s with err := .notConfigured }) ∧
      exec (.endRun 0#64) s = .next { s with err := .notConfigured })

/-- 43_commands.md R79 with 41_tone_comparator.md R65: END with no sample pending clears FULLBLK and the frame
register; with a partial block and no full block in the run it also drops the block without a bit. -/
def Obligations.EndWithoutAPartialBit : Prop :=
  ∀ s : State, s.ctrl = .configured →
    (s.cnt = 0#32 →
      exec (.endRun 0#64) s = .next { s with fullblk := false, fbits := 0#10, fcnt := 0#4 }) ∧
    (s.cnt ≠ 0#32 → s.fullblk = false →
      exec (.endRun 0#64) s = .next
        { s with mark := cleared s.mark, space := cleared s.space, cnt := 0#32, fbits := 0#10, fcnt := 0#4 })

/-- 43_commands.md R79 with 41_tone_comparator.md R65: END with a partial block after a full block decides it as
a shorter block, lets its bit complete a frame, and drops what is left of the frame. -/
def Obligations.EndDecidesAPartialBlock : Prop :=
  ∀ s : State, s.ctrl = .configured → s.cnt ≠ 0#32 → s.fullblk = true →
    ∃ t mM mS fbits fcnt, exec (.endRun 0#64) s = .next t ∧ MagValue s.mark mM ∧ MagValue s.space mS ∧
      FramePush s.fbits s.fcnt s.charOut (fge mM mS) fbits fcnt t.charOut ∧
      t = { s with
        mark := cleared s.mark
        space := cleared s.space
        cnt := 0#32
        fullblk := false
        fbits := 0#10
        fcnt := 0#4
        bitOut := s.bitOut ++ [fge mM mS]
        charOut := t.charOut }

/-- 10_state.md R26: a READ of a register or of a view without arithmetic appends the value of the map and
changes nothing else. For a register that holds a NaN, that the value is the stored pattern is the model's choice
(log entry 14): R86 says only that it is a NaN pattern. -/
def Obligations.ReadReturnsTheMappedRegister : Prop :=
  ∀ s : State,
    ∀ p ∈ [(0x00#6, statusView s), (0x01#6, s.staging.rate), (0x02#6, 0#32 ++ s.staging.n),
        (0x03#6, s.staging.markf), (0x04#6, s.staging.spacef), (0x05#6, s.active.rate),
        (0x06#6, 0#32 ++ s.active.n), (0x07#6, s.active.markf), (0x08#6, s.active.spacef),
        (0x09#6, 0#32 ++ s.cnt), (0x0A#6, frameView s)] ++
      [(0x10#6, s.mark.q1), (0x11#6, s.mark.q2), (0x12#6, s.mark.coeff), (0x13#6, s.mark.cos),
        (0x14#6, s.mark.sin), (0x15#6, s.mark.k), (0x16#6, s.mark.kint)] ++
      [(0x20#6, s.space.q1), (0x21#6, s.space.q2), (0x22#6, s.space.coeff), (0x23#6, s.space.cos),
        (0x24#6, s.space.sin), (0x25#6, s.space.k), (0x26#6, s.space.kint)],
      exec (.read p.1 0#64) s = .next { s with respOut := s.respOut ++ [p.2] }

/-- 10_state.md R26 with 40_tone_filter.md R58 and R59: a READ of MAG, REAL or IMAG appends the value computed
from the filter's registers at that moment; no register changes. -/
def Obligations.ReadComputesMagnitudeAndParts : Prop :=
  ∀ s : State,
    ∀ p ∈ [(0x17#6, MagValue s.mark), (0x18#6, RealValue s.mark), (0x19#6, ImagValue s.mark),
        (0x27#6, MagValue s.space), (0x28#6, RealValue s.space), (0x29#6, ImagValue s.space)],
      ∃ t v, exec (.read p.1 0#64) s = .next t ∧ p.2 v ∧
        t = { s with
          mark := { s.mark with draws := t.mark.draws }
          space := { s.space with draws := t.space.draws }
          respOut := s.respOut ++ [v] }

/-- 43_commands.md R86: READ of an unassigned selector, and READ with nonzero DATA, append the word 0 and record
their code. -/
def Obligations.ErroneousReadAppendsZero : Prop :=
  ∀ (s : State) (sel : BitVec 6),
    ((0x0B ≤ sel.toNat ∧ sel.toNat ≤ 0x0F) ∨ (0x1A ≤ sel.toNat ∧ sel.toNat ≤ 0x1F) ∨ 0x2A ≤ sel.toNat →
      exec (.read sel 0#64) s = .next { s with err := .badSelect, respOut := s.respOut ++ [0#64] }) ∧
    ∀ data, data ≠ 0#64 →
      exec (.read sel data) s = .next { s with err := .reservedNonzero, respOut := s.respOut ++ [0#64] }

/-- 10_state.md R24: the fields of STATUS, its reserved bits, and its reset value. -/
def Obligations.StatusLayout : Prop :=
  (∀ s : State,
    (statusView s).extractLsb' 0 2 = s.ctrl.code ∧ (statusView s).getLsbD 2 = s.fullblk ∧
    (statusView s).getLsbD 3 = false ∧ (statusView s).extractLsb' 4 4 = s.fcnt ∧
    (statusView s).extractLsb' 8 4 = s.err.code ∧ (statusView s).extractLsb' 12 52 = 0#52) ∧
  statusView State.reset = 0x0000000000000000#64

/-- 10_state.md R25: the fields of FRAME, its other bits, and its reset value. -/
def Obligations.FrameLayout : Prop :=
  (∀ s : State,
    (∀ j, j < 10 → (frameView s).getLsbD j = s.fbits.getLsbD j) ∧ (frameView s).extractLsb' 16 4 = s.fcnt ∧
    (∀ j, 10 ≤ j → (j < 16 ∨ 20 ≤ j) → (frameView s).getLsbD j = false)) ∧
  frameView State.reset = 0#64

/-! ## The filters and the comparator -/

/-- 40_tone_filter.md R56: STEP's values, that it reads both accumulators before it writes, and its corner cases:
an all-zero input keeps the accumulators at +0.0, and a NaN coefficient makes Q1 a NaN. -/
def Obligations.StepFollowsTheRecursion : Prop :=
  ∀ (tone : Tone) (f : Filter) (v : F64),
    StepValue f v (f.step tone v).q1 ∧ (f.step tone v).q2 = f.q1 ∧ SameCoefficients f (f.step tone v) ∧
    (isFinite f.coeff = true → f.q1 = 0#64 → f.q2 = 0#64 → v = 0#64 →
      (f.step tone v).q1 = 0#64 ∧ (f.step tone v).q2 = 0#64) ∧
    (isNaN f.coeff = true → isNaN (f.step tone v).q1 = true) ∧
    (f.coeff = 0x4000000000000000#64 → f.q1 = 0x3FF0000000000000#64 → f.q2 = 0#64 →
      v = 0x3FF0000000000000#64 → (f.step tone v).q1 = 0x4008000000000000#64)

/-- 40_tone_filter.md R57: PROCESS is STEP after STEP; an empty sequence changes nothing, and a sequence
processed in pieces gives what the whole gives. -/
def Obligations.ProcessInPieces : Prop :=
  ∀ (tone : Tone) (f : Filter) (a b : List F64) (v : F64),
    f.process tone [] = f ∧ f.process tone (v :: a) = (f.step tone v).process tone a ∧
    f.process tone (a ++ b) = (f.process tone a).process tone b

/-- 40_tone_filter.md R58: MAG's value and its corner cases: +0.0 for cleared accumulators and a finite
coefficient, and a NaN when any input is one. -/
def Obligations.MagnitudeFollowsItsFormula : Prop :=
  ∀ (tone : Tone) (f : Filter),
    MagValue f (f.mag tone) ∧
    (isFinite f.coeff = true → f.q1 = 0#64 → f.q2 = 0#64 → f.mag tone = 0#64) ∧
    (isNaN f.q1 = true ∨ isNaN f.q2 = true ∨ isNaN f.coeff = true → isNaN (f.mag tone) = true) ∧
    (f.q1 = 0x4008000000000000#64 → f.q2 = 0x3FF0000000000000#64 → f.coeff = 0x4000000000000000#64 →
      f.mag tone = 0x4010000000000000#64)

/-- 41_tone_comparator.md R63 and R67: DECIDE compares the two magnitudes; ties go to mark, the two zeros are
equal, and a NaN magnitude gives 0. -/
def Obligations.DecideComparesMagnitudes : Prop :=
  ∀ s : State, ∃ mM mS, MagValue s.mark mM ∧ MagValue s.space mS ∧
    (decideBit s = true ↔
      isNaN mM = false ∧ isNaN mS = false ∧
        (mM = 0x7FF0000000000000#64 ∨ mS = 0xFFF0000000000000#64 ∨
          (isFinite mM = true ∧ isFinite mS = true ∧ exact mS ≤ exact mM)))

/-- 41_tone_comparator.md R67: a block whose magnitude is a NaN gives the bit 0. Here the NaN is a coefficient,
so that the magnitude of a block of any samples is one. -/
def Obligations.NaNCoefficientGivesBitZero : Prop :=
  ∀ (s t : State) (smp : BitVec 16), s.ctrl = .configured → s.cnt + 1#32 = s.active.n →
    isNaN s.mark.coeff = true ∨ isNaN s.space.coeff = true → exec (.sample 0#48 smp) s = .next t →
    t.bitOut = s.bitOut ++ [false]

/-- 41_tone_comparator.md R66 (its all-zero remark), for finite coefficients: a SAMPLE of 0 on cleared
accumulators keeps them cleared, and at the block's end pushes the bit 1. -/
def Obligations.SilenceDecidesMark : Prop :=
  ∀ (s t : State), s.ctrl = .configured → isFinite s.mark.coeff = true → isFinite s.space.coeff = true →
    s.mark.q1 = 0#64 → s.mark.q2 = 0#64 → s.space.q1 = 0#64 → s.space.q2 = 0#64 →
    exec (.sample 0#48 0#16) s = .next t →
    t.mark.q1 = 0#64 ∧ t.mark.q2 = 0#64 ∧ t.space.q1 = 0#64 ∧ t.space.q2 = 0#64 ∧
      (s.cnt + 1#32 = s.active.n → t.bitOut = s.bitOut ++ [true]) ∧
      (s.cnt + 1#32 ≠ s.active.n → t.bitOut = s.bitOut)

/-- 41_tone_comparator.md R64's corner case, for finite coefficients: with N = 1 every sample is its own block
and the bit is 1. -/
def Obligations.OneSampleBlocksDecideMark : Prop :=
  ∀ (s : State) (smp : BitVec 16), s.ctrl = .configured → s.active.n = 1#32 → s.cnt = 0#32 →
    isFinite s.mark.coeff = true → isFinite s.space.coeff = true →
    s.mark.q1 = 0#64 → s.mark.q2 = 0#64 → s.space.q1 = 0#64 → s.space.q2 = 0#64 →
    ∃ t, exec (.sample 0#48 smp) s = .next t ∧ t.bitOut = s.bitOut ++ [true] ∧ t.cnt = 0#32

/-- 43_commands.md, WR_MARKF's remark on equal frequencies, where the magnitude is no NaN: filters with the same
coefficient and the same accumulators decide 1, whatever free patterns the operations draw. -/
def Obligations.EqualFiltersDecideMark : Prop :=
  ∀ s : State, s.mark.coeff = s.space.coeff → s.mark.q1 = s.space.q1 → s.mark.q2 = s.space.q2 →
    isNaN (s.mark.mag .mark) = false → decideBit s = true

/-- 41_tone_comparator.md R62 to R66: a whole block of SAMPLE commands appends one bit, the comparison of the two
filters' magnitudes after PROCESS of exactly the block's samples, and leaves a fresh block. -/
def Obligations.ABlockOfSamplesDecidesOneBit : Prop :=
  ∀ (s : State) (smps : List (BitVec 16)) (rest : List HostInput),
    s.ctrl = .configured → s.cnt = 0#32 → smps ≠ [] → smps.length = s.active.n.toNat →
    s.inbox = sampleInputs smps ++ rest →
    ∃ t, core.run smps.length s = .next t ∧
      t.bitOut = s.bitOut ++
        [fge ((s.mark.process .mark (smps.map i16ToF64)).mag .mark)
          ((s.space.process .space (smps.map i16ToF64)).mag .space)] ∧
      t.cnt = 0#32 ∧ t.fullblk = true ∧ t.inbox = rest ∧ t.ctrl = s.ctrl ∧ t.err = s.err ∧
      t.staging = s.staging ∧ t.active = s.active ∧ t.respOut = s.respOut ∧
      SameRegisters (cleared s.mark) t.mark ∧ SameRegisters (cleared s.space) t.space

/-! ## The frame decoder -/

/-- 42_frame_decoder.md R68: ASM_PUSH appends the bit to BIT_OUT, fills the cell at FCNT, and at the tenth bit
decodes and clears the frame register; nothing else changes. -/
def Obligations.AsmPushFillsTheFrame : Prop :=
  ∀ (s : State) (b : Bool),
    FramePush s.fbits s.fcnt s.charOut b (asmPush b s).fbits (asmPush b s).fcnt (asmPush b s).charOut ∧
    asmPush b s = { s with
      fbits := (asmPush b s).fbits
      fcnt := (asmPush b s).fcnt
      bitOut := s.bitOut ++ [b]
      charOut := (asmPush b s).charOut }

/-- 42_frame_decoder.md R70, R71, R72, R75: which frames are valid, the code they emit, that bit 8 is ignored, and
that an invalid frame emits nothing and changes nothing but the frame register. -/
def Obligations.TenthBitDecodesTheFrame : Prop :=
  ∀ (s : State) (stop : Bool), s.fcnt = 9#4 →
    (s.fbits.getLsbD 0 = false ∧ stop = true →
      asmPush stop s = { s with
        fbits := 0#10, fcnt := 0#4, bitOut := s.bitOut ++ [stop]
        charOut := s.charOut ++
          [BitVec.ofNat 7 (((List.range 7).map fun i => if s.fbits.getLsbD (1 + i) then 2 ^ i else 0).sum)] }) ∧
    (¬(s.fbits.getLsbD 0 = false ∧ stop = true) →
      asmPush stop s = { s with fbits := 0#10, fcnt := 0#4, bitOut := s.bitOut ++ [stop] }) ∧
    (∀ s' : State, s' = { s with fbits := s.fbits ^^^ 0x100#10 } →
      asmPush stop s' = asmPush stop s)

/-- The round trip of a character through a frame (95_test_vectors.md T3): start bit 0, the seven bits of any
code LSB first, any bit 8, stop bit 1, pushed on an empty frame register, emit exactly that code. -/
def Obligations.CharacterRoundTrip : Prop :=
  ∀ (s : State) (code : BitVec 7) (bit8 : Bool), s.fcnt = 0#4 → s.fbits = 0#10 →
    (pushAll ([false] ++ (List.range 7).map code.getLsbD ++ [bit8, true]) s).charOut = s.charOut ++ [code] ∧
    (pushAll ([false] ++ (List.range 7).map code.getLsbD ++ [bit8, true]) s).fcnt = 0#4

/-- 42_frame_decoder.md R69: framing is a fixed partition. Any bits pushed on an empty frame register emit what
the batch reading in consecutive tens emits, and the rest waits in the frame register. -/
def Obligations.FramingIsAFixedPartition : Prop :=
  ∀ (s : State) (bits : List Bool), s.fcnt = 0#4 → s.fbits = 0#10 →
    pushAll bits s = { s with
      fbits := (pushAll bits s).fbits
      fcnt := BitVec.ofNat 4 (bits.length % 10)
      bitOut := s.bitOut ++ bits
      charOut := s.charOut ++ decodeBits bits } ∧
    ∀ j, j < 10 →
      (pushAll bits s).fbits.getLsbD j = (bits.drop (10 * (bits.length / 10))).getD j false

/-! ## Binary64 -/

/-- 00_scope.md R8: `fge` is "greater than or equal" of real numbers, false with a NaN; the zeros compare equal,
and an infinity is larger (or smaller) than every finite value. -/
def Obligations.FgeIsTheRealComparison : Prop :=
  ∀ a b : F64, fge a b = true ↔
    isNaN a = false ∧ isNaN b = false ∧
      (a = 0x7FF0000000000000#64 ∨ b = 0xFFF0000000000000#64 ∨
        (isFinite a = true ∧ isFinite b = true ∧ exact b ≤ exact a))

/-- 00_scope.md R9: both integer conversions are exact, and zero converts to +0.0. -/
def Obligations.IntegerConversionsAreExact : Prop :=
  (∀ v : BitVec 16, isFinite (i16ToF64 v) = true ∧ exact (i16ToF64 v) = v.toInt * oneUnits) ∧
  (∀ n : BitVec 32, isFinite (u32ToF64 n) = true ∧ exact (u32ToF64 n) = n.toNat * oneUnits) ∧
  i16ToF64 0#16 = 0x0000000000000000#64 ∧ u32ToF64 0#32 = 0x0000000000000000#64

/-- 00_scope.md R10, the four cases of `trunc_sat_u64`. -/
def Obligations.TruncationSaturates : Prop :=
  ∀ x : F64,
    (isNaN x = true → truncSatU64 x = 0#64) ∧
    (isNaN x = false → fge 0#64 x = true → truncSatU64 x = 0#64) ∧
    (isNaN x = false → fge x 0x43F0000000000000#64 = true → truncSatU64 x = 0xFFFFFFFFFFFFFFFF#64) ∧
    (isNaN x = false → fge 0#64 x = false → fge x 0x43F0000000000000#64 = false →
      ((truncSatU64 x).toNat : Int) * oneUnits ≤ exact x ∧
        exact x < ((truncSatU64 x).toNat + 1 : Int) * oneUnits)

/-- 00_scope.md R7: the finite results of finite operands are the exact results rounded once to the nearest
value, ties to the even significand. -/
def Obligations.ArithmeticRoundsToNearestEven : Prop :=
  ∀ nan a b : F64, isFinite a = true → isFinite b = true →
    (isFinite (fadd nan a b) = true → NearestEven (exact a + exact b) 1 (fadd nan a b)) ∧
    (isFinite (fsub nan a b) = true → NearestEven (exact a - exact b) 1 (fsub nan a b)) ∧
    (isFinite (fmul nan a b) = true → NearestEven (exact a * exact b) oneUnits (fmul nan a b)) ∧
    (isZero b = false → isFinite (fdiv nan a b) = true →
      NearestEven ((if signBit b then -exact a else exact a) * oneUnits) (units b) (fdiv nan a b))

/-- 00_scope.md R7: where the exact result lies halfway past the largest finite value or farther, the result is
the infinity of its sign; elsewhere it is finite. -/
def Obligations.OverflowRoundsToInfinity : Prop :=
  ∀ nan a b : F64, isFinite a = true → isFinite b = true →
    (isFinite (fadd nan a b) = true ↔ (exact a + exact b).natAbs < overflowUnits) ∧
    (overflowUnits ≤ (exact a + exact b).natAbs →
      isInf (fadd nan a b) = true ∧ signBit (fadd nan a b) = decide (exact a + exact b < 0)) ∧
    (isFinite (fmul nan a b) = true ↔ units a * units b < overflowUnits * oneUnits) ∧
    (overflowUnits * oneUnits ≤ units a * units b →
      isInf (fmul nan a b) = true ∧ signBit (fmul nan a b) = (signBit a != signBit b)) ∧
    (isZero b = false →
      (isFinite (fdiv nan a b) = true ↔ units a * oneUnits < overflowUnits * units b) ∧
      (overflowUnits * units b ≤ units a * oneUnits →
        isInf (fdiv nan a b) = true ∧ signBit (fdiv nan a b) = (signBit a != signBit b)))

/-- 00_scope.md R7: the special values. NaN operands and the invalid operations give NaN, division by zero a
signed infinity, what an infinity gives with a finite value or another infinity, and the sign of a zero sum. What
R7 leaves to IEEE 754 here is log entry 8. -/
def Obligations.SpecialValuesOfArithmetic : Prop :=
  ∀ nan a b : F64, isNaN nan = true →
    (isNaN a = true ∨ isNaN b = true →
      isNaN (fadd nan a b) = true ∧ isNaN (fsub nan a b) = true ∧ isNaN (fmul nan a b) = true ∧
        isNaN (fdiv nan a b) = true) ∧
    (isInf a = true → isInf b = true →
      isNaN (fdiv nan a b) = true ∧ (isNaN (fadd nan a b) = true ↔ signBit a ≠ signBit b) ∧
        (isNaN (fsub nan a b) = true ↔ signBit a = signBit b) ∧
        (signBit a = signBit b → fadd nan a b = a) ∧ (signBit a ≠ signBit b → fsub nan a b = a) ∧
        isInf (fmul nan a b) = true ∧ signBit (fmul nan a b) = (signBit a != signBit b)) ∧
    (isInf a = true → isFinite b = true →
      fadd nan a b = a ∧ fadd nan b a = a ∧ fsub nan a b = a ∧ fsub nan b a = fneg a ∧
        isInf (fdiv nan a b) = true ∧ signBit (fdiv nan a b) = (signBit a != signBit b) ∧
        isZero (fdiv nan b a) = true ∧ signBit (fdiv nan b a) = (signBit a != signBit b) ∧
        (isZero b = false →
          isInf (fmul nan a b) = true ∧ signBit (fmul nan a b) = (signBit a != signBit b) ∧
            fmul nan b a = fmul nan a b)) ∧
    (isZero a = true → isInf b = true →
      isNaN (fmul nan a b) = true ∧ isNaN (fmul nan b a) = true) ∧
    (isZero a = true → isZero b = true → isNaN (fdiv nan a b) = true) ∧
    (isFinite a = true → isZero a = false → isZero b = true →
      isInf (fdiv nan a b) = true ∧ signBit (fdiv nan a b) = (signBit a != signBit b)) ∧
    (isFinite a = true → isFinite b = true →
      isNaN (fadd nan a b) = false ∧ isNaN (fsub nan a b) = false ∧ isNaN (fmul nan a b) = false) ∧
    (isFinite a = true → isFinite b = true → exact a + exact b = 0 →
      isZero (fadd nan a b) = true ∧ signBit (fadd nan a b) = (signBit a && signBit b)) ∧
    (isFinite a = true → fsub nan a a = 0x0000000000000000#64)

/-- 00_scope.md R7: the signs of the results of finite operands, zero results among them, and which of them are
zeros; and R59's corner case, IMAG = -0.0 for Q2 = +0.0 and a negative SIN. The sign of a zero product or quotient is
IEEE 754's and stands in no rule but that corner case (log entry 8). -/
def Obligations.SignsOfFiniteResults : Prop :=
  (∀ nan a b : F64, isFinite a = true → isFinite b = true →
    signBit (fmul nan a b) = (signBit a != signBit b) ∧
    (isZero a = true ∨ isZero b = true → isZero (fmul nan a b) = true) ∧
    (isZero b = false →
      signBit (fdiv nan a b) = (signBit a != signBit b) ∧ (isZero a = true → isZero (fdiv nan a b) = true)) ∧
    (exact a + exact b ≠ 0 →
      isZero (fadd nan a b) = false ∧ signBit (fadd nan a b) = decide (exact a + exact b < 0)) ∧
    (exact a - exact b ≠ 0 →
      isZero (fsub nan a b) = false ∧ signBit (fsub nan a b) = decide (exact a - exact b < 0)) ∧
    (exact a - exact b = 0 →
      isZero (fsub nan a b) = true ∧ signBit (fsub nan a b) = (signBit a && !signBit b))) ∧
  (∀ (tone : Tone) (f : Filter), f.q2 = 0#64 → isFinite f.sin = true → signBit f.sin = true →
    f.imag tone = 0x8000000000000000#64)

/-! ## The assembler -/

/-- 30_encoding.md R48: every word the assembler makes decodes to a command with zero reserved bits. -/
def Obligations.AssembledWordsAreCommands : Prop :=
  ∀ (text : List Char) (ws : List CommandWord), Asm.assemble text = some ws →
    ∀ w ∈ ws, ∃ i, decode w = .instr i ∧ i.wellFormed = true

/-- 30_encoding.md R48 and R49: the ranges the assembler accepts, the operands it encodes, and the words of the
five pseudo-instructions. -/
def Obligations.AssemblerExpansions : Prop :=
  (∀ v : Int, (Asm.expand (.sample v)).isSome = true ↔ -32768 ≤ v ∧ v ≤ 32767) ∧
  (∀ v : Int, -32768 ≤ v → v ≤ 32767 →
    Asm.expand (.sample v) = some [.sample 0#48 (BitVec.ofNat 16 (v % 2 ^ 16).toNat)]) ∧
  (∀ n : Nat, (Asm.expand (.wrN n)).isSome = true ↔ n < 2 ^ 32) ∧
  (∀ n : Nat, n < 2 ^ 32 → Asm.expand (.wrN n) = some [.wrN 0#32 (BitVec.ofNat 32 n)]) ∧
  (∀ sel : Nat, (Asm.expand (.read sel)).isSome = true ↔ sel ≤ 63) ∧
  (∀ sel : Nat, sel ≤ 63 → Asm.expand (.read sel) = some [.read (BitVec.ofNat 6 sel) 0#64]) ∧
  (∀ (rate mark space : F64) (n : Nat),
    (n < 2 ^ 32 → Asm.expand (.cfg rate n mark space) =
      some [.wrRate rate, .wrN 0#32 (BitVec.ofNat 32 n), .wrMarkf mark, .wrSpacef space, .configure 0#64]) ∧
    (2 ^ 32 ≤ n → Asm.expand (.cfg rate n mark space) = none)) ∧
  Asm.expand .presetAnswering = some [.wrMarkf (u32ToF64 2225#32), .wrSpacef (u32ToF64 2025#32)] ∧
  Asm.expand .presetOriginating = some [.wrMarkf (u32ToF64 1270#32), .wrSpacef (u32ToF64 1070#32)] ∧
  (∀ vs : List Int, (∀ v ∈ vs, -32768 ≤ v ∧ v ≤ 32767) →
    Asm.expand (.samples vs) = some (vs.map fun v => .sample 0#48 (BitVec.ofNat 16 (v % 2 ^ 16).toNat))) ∧
  (∀ vs : List Int, (∃ v ∈ vs, ¬(-32768 ≤ v ∧ v ≤ 32767)) → Asm.expand (.samples vs) = none) ∧
  Asm.expand .status = some [.read 0x00#6 0#64]
end

