-- ==== Sys2Proof/Laws/Binary64.lean ====
section
/-! SUPPORT. The binary64 primitives: the encoding's fields, the kinds of values, what rounding does, and where
NaNs come from. -/

namespace Sys2Proof.Machine

/-! ### The encoding -/

theorem magnitude_lt (x : F64) : magnitude x < 2 ^ 63 := Nat.mod_lt _ (by decide)

theorem toNat_eq (x : F64) : x.toNat = (if signBit x then 2 ^ 63 else 0) + magnitude x := by
  have hlt := x.isLt
  simp only [signBit, magnitude, BitVec.msb_eq_decide]
  split <;> simp_all <;> omega

theorem pack_sign_magnitude (x : F64) : pack (signBit x) (magnitude x) = x := by
  apply BitVec.eq_of_toNat_eq
  have hlt := x.isLt
  rw [pack, ← toNat_eq, BitVec.toNat_ofNat, Nat.mod_eq_of_lt hlt]

theorem toNat_pack (neg : Bool) {p : Nat} (h : p < 2 ^ 63) :
    (pack neg p).toNat = (if neg then 2 ^ 63 else 0) + p := by
  rw [pack, BitVec.toNat_ofNat, Nat.mod_eq_of_lt]
  split <;> omega

theorem magnitude_pack (neg : Bool) {p : Nat} (h : p < 2 ^ 63) : magnitude (pack neg p) = p := by
  rw [magnitude, toNat_pack neg h]
  split <;> omega

theorem signBit_pack (neg : Bool) {p : Nat} (h : p < 2 ^ 63) : signBit (pack neg p) = neg := by
  rw [signBit, BitVec.msb_eq_decide, toNat_pack neg h]
  cases neg <;> simp
  omega

/-- Two values with the same sign and magnitude are the same. -/
theorem eq_of_sign_magnitude {x y : F64} (hs : signBit x = signBit y) (hm : magnitude x = magnitude y) : x = y := by
  rw [← pack_sign_magnitude x, ← pack_sign_magnitude y, hs, hm]

theorem infMagnitude_lt : infMagnitude < 2 ^ 63 := by decide

@[simp] theorem magnitude_fneg (x : F64) : magnitude (fneg x) = magnitude x := by
  have h : ∀ y : F64, magnitude y = (y.setWidth 63).toNat := by
    intro y; simp [magnitude, BitVec.toNat_setWidth]
  rw [h, h]
  congr 1
  apply BitVec.eq_of_getLsbD_eq
  intro i hi
  simp [fneg]

@[simp] theorem signBit_fneg (x : F64) : signBit (fneg x) = !signBit x := by
  simp [signBit, fneg, BitVec.msb_xor]
  cases x.msb <;> rfl

/-! ### The kinds of values -/

theorem isNaN_iff (x : F64) : isNaN x = true ↔ infMagnitude < magnitude x := by simp [isNaN]
theorem isInf_iff (x : F64) : isInf x = true ↔ magnitude x = infMagnitude := by simp [isInf]
theorem isFinite_iff (x : F64) : isFinite x = true ↔ magnitude x < infMagnitude := by simp [isFinite]
theorem isZero_iff (x : F64) : isZero x = true ↔ magnitude x = 0 := by simp [isZero]

/-- Every value is exactly one of NaN, infinite, finite. -/
theorem isFinite_eq (x : F64) : isFinite x = (!isNaN x && !isInf x) := by
  simp only [isFinite, isNaN, isInf, ← decide_not, ← Bool.decide_and]
  congr 1
  apply propext
  omega

@[simp] theorem isNaN_fneg (x : F64) : isNaN (fneg x) = isNaN x := by simp [isNaN]
@[simp] theorem isInf_fneg (x : F64) : isInf (fneg x) = isInf x := by simp [isInf]
@[simp] theorem isFinite_fneg (x : F64) : isFinite (fneg x) = isFinite x := by simp [isFinite]
@[simp] theorem isZero_fneg (x : F64) : isZero (fneg x) = isZero x := by simp [isZero]

theorem exact_fneg (x : F64) : exact (fneg x) = -exact x := by
  cases h : signBit x <;> simp [exact, units, h]

theorem natAbs_exact (x : F64) : (exact x).natAbs = units x := by
  unfold exact; split <;> simp

theorem isNaN_pack (neg : Bool) {p : Nat} (h : p ≤ infMagnitude) : isNaN (pack neg p) = false := by
  have := infMagnitude_lt
  rw [isNaN, magnitude_pack neg (by omega)]
  simpa using h

theorem isInf_pack (neg : Bool) {p : Nat} (h : p ≤ infMagnitude) :
    isInf (pack neg p) = decide (p = infMagnitude) := by
  have := infMagnitude_lt
  rw [isInf, magnitude_pack neg (by omega)]

theorem isFinite_pack (neg : Bool) {p : Nat} (h : p ≤ infMagnitude) :
    isFinite (pack neg p) = decide (p < infMagnitude) := by
  have := infMagnitude_lt
  rw [isFinite, magnitude_pack neg (by omega)]

/-- A free NaN pattern is a NaN, whatever its source says. -/
theorem isNaN_nanDraw (t : Tone) (i : Nat) : isNaN (nanDraw t i) = true := by
  have h52 : (Config.freeNaN t i).toNat % 2 ^ 52 < 2 ^ 52 := Nat.mod_lt _ (by decide)
  rw [isNaN_iff, nanDraw, magnitude_pack] <;> unfold infMagnitude <;> split <;> omega

theorem isNaN_openResult (nan x : F64) (hn : isNaN nan = true) : isNaN (openResult nan x) = isNaN x := by
  cases h : isNaN x <;> simp [openResult, h, hn]

/-! ### Rounding -/

/-- The magnitude `k * 2^52 + m` of a value with significand `m` and scale `2^k`; `m = 2^53` is a carry. -/
theorem unitsOf_scaled (k m : Nat) (hm : m ≤ 2 ^ 53) (hk : k = 0 ∨ 2 ^ 52 ≤ m) :
    unitsOf (k * 2 ^ 52 + m) = m * 2 ^ k := by
  have h52 : 0 < 2 ^ 52 := by decide
  rcases Nat.lt_or_ge m (2 ^ 52) with h | h
  · have : k = 0 := by omega
    subst this
    rw [Nat.zero_mul, Nat.zero_add, pow_zero, Nat.mul_one, unitsOf, if_pos (Nat.div_eq_of_lt h)]
  · rcases Nat.lt_or_ge m (2 ^ 53) with h' | h'
    · have hd : (k * 2 ^ 52 + m) / 2 ^ 52 = k + 1 := by omega
      have hr : (k * 2 ^ 52 + m) % 2 ^ 52 = m - 2 ^ 52 := by omega
      simp only [unitsOf, hd, hr]
      rw [if_neg (by omega), show k + 1 - 1 = k by omega, show 2 ^ 52 + (m - 2 ^ 52) = m by omega]
    · have hm' : m = 2 ^ 53 := by omega
      have hd : (k * 2 ^ 52 + m) / 2 ^ 52 = k + 2 := by omega
      have hr : (k * 2 ^ 52 + m) % 2 ^ 52 = 0 := by omega
      rw [unitsOf, hd, hr, if_neg (by omega), show k + 2 - 1 = k + 1 by omega, hm']
      ring

/-- Every magnitude is a significand and a scale. -/
theorem exists_scaled (p : Nat) :
    ∃ k m, p = k * 2 ^ 52 + m ∧ m < 2 ^ 53 ∧ (k = 0 ∨ 2 ^ 52 ≤ m) ∧ unitsOf p = m * 2 ^ k := by
  rcases Nat.eq_zero_or_pos (p / 2 ^ 52) with h | h
  · refine ⟨0, p, by omega, by omega, .inl rfl, ?_⟩
    rw [unitsOf, if_pos h, pow_zero, Nat.mul_one]
  · refine ⟨p / 2 ^ 52 - 1, 2 ^ 52 + p % 2 ^ 52, by omega, by omega, .inr (by omega), ?_⟩
    simp only [unitsOf]
    rw [if_neg (by omega)]

/-- The scale and the significand that `roundMagnitude` chooses. -/
theorem rounding_scale (num den : Nat) :
    let k := (num / den).log2 - 52
    num / (den * 2 ^ k) < 2 ^ 53 ∧ (k = 0 ∨ 2 ^ 52 ≤ num / (den * 2 ^ k)) := by
  intro k
  rw [← Nat.div_div_eq_div_mul]
  have hkdef : k = (num / den).log2 - 52 := rfl
  clear_value k
  generalize hQ : num / den = Q at *
  rcases Nat.eq_zero_or_pos Q with h0 | hpos
  · subst h0; simp [hkdef]
  · have h1 : 2 ^ Q.log2 ≤ Q := Nat.log2_self_le (by omega)
    have h2 : Q < 2 ^ (Q.log2 + 1) := Nat.lt_log2_self
    have hk0 : 0 < 2 ^ k := Nat.two_pow_pos k
    rcases Nat.lt_or_ge Q.log2 53 with h | h
    · rcases Nat.eq_zero_or_pos k with hk | hk
      · refine ⟨?_, .inl hk⟩
        rw [hk, pow_zero, Nat.div_one]
        exact lt_of_lt_of_le h2 (Nat.pow_le_pow_right (by decide) (by omega))
      · omega
    · have hk : Q.log2 = 52 + k := by omega
      rw [hk] at h1 h2
      refine ⟨?_, .inr ?_⟩
      · rw [Nat.div_lt_iff_lt_mul hk0]
        calc Q < 2 ^ (52 + k + 1) := h2
          _ = 2 ^ 53 * 2 ^ k := by rw [← pow_add]; congr 1; omega
      · rw [Nat.le_div_iff_mul_le hk0]
        calc 2 ^ 52 * 2 ^ k = 2 ^ (52 + k) := by rw [← pow_add]
          _ ≤ Q := h1

/-- What `roundMagnitude` answers: at the scale `2^k`, the quotient `q` or the next one, whichever is nearer to
`num / den`, the even one of the two at the half way, and infinity past the largest finite magnitude. -/
theorem roundMagnitude_spec (num den : Nat) (hd : 0 < den) :
    ∃ k q m, roundMagnitude num den = min (k * 2 ^ 52 + m) infMagnitude ∧
      q * 2 ^ k * den ≤ num ∧ num < (q + 1) * 2 ^ k * den ∧ q < 2 ^ 53 ∧ (k = 0 ∨ 2 ^ 52 ≤ q) ∧
      ((m = q ∧ 2 * num ≤ (2 * q + 1) * 2 ^ k * den) ∨ (m = q + 1 ∧ (2 * q + 1) * 2 ^ k * den ≤ 2 * num)) ∧
      (2 * num = (2 * q + 1) * 2 ^ k * den → m % 2 = 0) := by
  obtain ⟨hq, hk⟩ := rounding_scale num den
  generalize hkk : (num / den).log2 - 52 = k at hq hk
  have hs : 0 < den * 2 ^ k := Nat.mul_pos hd (Nat.two_pow_pos k)
  have hdm := Nat.div_add_mod num (den * 2 ^ k)
  have hr := Nat.mod_lt num hs
  generalize hqq : num / (den * 2 ^ k) = q at *
  generalize hrr : num % (den * 2 ^ k) = r at *
  have e1 : q * 2 ^ k * den = den * 2 ^ k * q := by ring
  have e2 : (q + 1) * 2 ^ k * den = den * 2 ^ k * q + den * 2 ^ k := by ring
  have e3 : (2 * q + 1) * 2 ^ k * den = 2 * (den * 2 ^ k * q) + den * 2 ^ k := by ring
  generalize den * 2 ^ k * q = dq at *
  have hround : roundMagnitude num den = min (k * 2 ^ 52 + q +
      (if decide (den * 2 ^ k < 2 * r) || (decide (2 * r = den * 2 ^ k) && decide (q % 2 = 1)) then 1 else 0))
      infMagnitude := by
    simp only [roundMagnitude, hkk, hqq, hrr]
  generalize den * 2 ^ k = d at *
  rcases Nat.lt_trichotomy (2 * r) d with h | h | h
  · refine ⟨k, q, q, ?_, by omega, by omega, hq, hk, .inl ⟨rfl, by omega⟩, by omega⟩
    rw [hround, if_neg (by simp; omega), Nat.add_zero]
  · rcases Nat.mod_two_eq_zero_or_one q with hp | hp
    · refine ⟨k, q, q, ?_, by omega, by omega, hq, hk, .inl ⟨rfl, by omega⟩, by omega⟩
      rw [hround, if_neg (by simp [hp]; omega), Nat.add_zero]
    · refine ⟨k, q, q + 1, ?_, by omega, by omega, hq, hk, .inr ⟨rfl, by omega⟩, by omega⟩
      rw [hround, if_pos (by simp [h, hp]), Nat.add_assoc]
  · refine ⟨k, q, q + 1, ?_, by omega, by omega, hq, hk, .inr ⟨rfl, by omega⟩, by omega⟩
    rw [hround, if_pos (by simp [h]), Nat.add_assoc]

theorem roundMagnitude_le (num den : Nat) : roundMagnitude num den ≤ infMagnitude := Nat.min_le_right _ _

/-- An exact zero rounds to zero. -/
theorem roundMagnitude_zero {den : Nat} (hd : 0 < den) : roundMagnitude 0 den = 0 := by
  obtain ⟨k, q, m, h, h1, -, -, h4, h5, -⟩ := roundMagnitude_spec 0 den hd
  have p : 0 < 2 ^ k * den := Nat.mul_pos (Nat.two_pow_pos k) hd
  have hq : q = 0 := by
    by_contra hc
    have : 0 < q * 2 ^ k * den := by rw [Nat.mul_assoc]; exact Nat.mul_pos (by omega) p
    omega
  subst hq
  have hm : m = 0 := by
    rcases h5 with h | ⟨-, h⟩
    · exact h.1
    · simp only [Nat.mul_zero, Nat.zero_add, Nat.one_mul] at h; omega
  rw [h, show k = 0 by omega, hm]
  rfl

/-- A whole number of units, not zero, does not round to zero. -/
theorem roundMagnitude_pos {n : Nat} (h0 : 0 < n) : 0 < roundMagnitude n 1 := by
  obtain ⟨k, q, m, h, -, h2, -, h4, h5, -⟩ := roundMagnitude_spec n 1 (by decide)
  have : 0 < infMagnitude := by decide
  have : 0 < k * 2 ^ 52 + m := by
    rcases h4 with rfl | hq
    · simp at h2; omega
    · omega
  rw [h]
  omega

/-! ### Magnitudes in units of 2^-1074 -/

theorem oneUnits_pos : 0 < oneUnits := Nat.two_pow_pos 1074

theorem unitsOf_zero : unitsOf 0 = 0 := by decide

theorem unitsOf_pos {p : Nat} (h : p ≠ 0) : 0 < unitsOf p := by
  obtain ⟨k, m, hp, -, hk, hu⟩ := exists_scaled p
  rw [hu]
  exact Nat.mul_pos (by omega) (Nat.two_pow_pos k)

/-- A larger magnitude stands for a larger value. -/
theorem unitsOf_lt {p p' : Nat} (h : p < p') : unitsOf p < unitsOf p' := by
  obtain ⟨k, m, hp, hm, hk, hu⟩ := exists_scaled p
  obtain ⟨k', m', hp', hm', hk', hu'⟩ := exists_scaled p'
  rw [hu, hu']
  rcases Nat.lt_trichotomy k k' with hlt | rfl | hgt
  · calc m * 2 ^ k < 2 ^ 53 * 2 ^ k := Nat.mul_lt_mul_of_pos_right hm (Nat.two_pow_pos _)
      _ = 2 ^ 52 * 2 ^ (k + 1) := by ring
      _ ≤ m' * 2 ^ k' := Nat.mul_le_mul (by omega) (Nat.pow_le_pow_right (by decide) hlt)
  · exact Nat.mul_lt_mul_of_pos_right (by omega) (Nat.two_pow_pos _)
  · omega

theorem exact_pack (neg : Bool) {p : Nat} (h : p ≤ infMagnitude) :
    exact (pack neg p) = if neg then -(unitsOf p : Int) else unitsOf p := by
  have := infMagnitude_lt
  rw [exact, signBit_pack neg (by omega), units, magnitude_pack neg (by omega)]

/-! ### The operations by the kinds of their operands -/

theorem finite_kinds {x : F64} (h : isFinite x = true) : isNaN x = false ∧ isInf x = false := by
  rw [isFinite_eq] at h; simpa using h

/-- A sum of finite operands. -/
theorem fadd_finite (nan : F64) {a b : F64} (ha : isFinite a = true) (hb : isFinite b = true) :
    fadd nan a b =
      if exact a + exact b = 0 then pack (signBit a && signBit b) 0 else roundExact (exact a + exact b) := by
  simp [fadd, finite_kinds ha, finite_kinds hb]

/-- A product of finite operands. -/
theorem fmul_finite (nan : F64) {a b : F64} (ha : isFinite a = true) (hb : isFinite b = true) :
    fmul nan a b = pack (signBit a != signBit b) (roundMagnitude (units a * units b) oneUnits) := by
  simp [fmul, finite_kinds ha, finite_kinds hb]

/-- A quotient of finite operands. -/
theorem fdiv_finite (nan : F64) {a b : F64} (ha : isFinite a = true) (hb : isFinite b = true)
    (hz : isZero b = false) :
    fdiv nan a b = pack (signBit a != signBit b) (roundMagnitude (units a * oneUnits) (units b)) := by
  simp [fdiv, finite_kinds ha, finite_kinds hb, hz]

theorem fadd_of_isNaN (nan : F64) {a b : F64} (h : isNaN a = true ∨ isNaN b = true) : fadd nan a b = nan := by
  unfold fadd; rcases h with h | h <;> simp [h]

theorem fsub_of_isNaN (nan : F64) {a b : F64} (h : isNaN a = true ∨ isNaN b = true) : fsub nan a b = nan :=
  fadd_of_isNaN nan (by simpa using h)

theorem fmul_of_isNaN (nan : F64) {a b : F64} (h : isNaN a = true ∨ isNaN b = true) : fmul nan a b = nan := by
  unfold fmul; rcases h with h | h <;> simp [h]

/-- Where a sum is no NaN, the free pattern offered for it does not show. -/
theorem fadd_pattern {n a b : F64} (n' : F64) (hn : isNaN n = true) (h : isNaN (fadd n a b) = false) :
    fadd n' a b = fadd n a b := by
  unfold fadd at h ⊢; split_ifs at h ⊢ <;> simp_all

/-- Where a product is no NaN, the free pattern offered for it does not show. -/
theorem fmul_pattern {n a b : F64} (n' : F64) (hn : isNaN n = true) (h : isNaN (fmul n a b) = false) :
    fmul n' a b = fmul n a b := by
  unfold fmul at h ⊢; simp only at h ⊢; split_ifs at h ⊢ <;> simp_all

end Sys2Proof.Machine
end

