-- ==== Sys2Proof/Laws/Decode.lean ====
section
/-! SUPPORT. The fields of a command word. -/

namespace Sys2Proof

/-- The high part of two values put together. -/
@[simp] theorem extractLsb'_high {a b : Nat} (x : BitVec a) (y : BitVec b) : (x ++ y).extractLsb' b a = x := by
  apply BitVec.eq_of_getLsbD_eq
  intro i hi
  simp [BitVec.getLsbD_append, hi]

/-- The low part of two values put together. -/
@[simp] theorem extractLsb'_low {a b : Nat} (x : BitVec a) (y : BitVec b) : (x ++ y).extractLsb' 0 b = y := by
  apply BitVec.eq_of_getLsbD_eq
  intro i hi
  simp [BitVec.getLsbD_append, hi]

@[simp] theorem opcField_mkWord (opc : BitVec 8) (data : BitVec 64) : opcField (mkWord opc data) = opc :=
  extractLsb'_high opc data

@[simp] theorem dataField_mkWord (opc : BitVec 8) (data : BitVec 64) : dataField (mkWord opc data) = data :=
  extractLsb'_low opc data

/-! The operand fields of S16, U32 and RD (30_encoding.md R39). -/

@[simp] theorem sample_reserved (rsv : BitVec 48) (smp : BitVec 16) :
    (rsv ++ smp : BitVec 64).extractLsb' 16 48 = rsv := extractLsb'_high rsv smp

@[simp] theorem sample_operand (rsv : BitVec 48) (smp : BitVec 16) :
    (rsv ++ smp : BitVec 64).extractLsb' 0 16 = smp := extractLsb'_low rsv smp

@[simp] theorem wrN_reserved (rsv val : BitVec 32) :
    (rsv ++ val : BitVec 64).extractLsb' 32 32 = rsv := extractLsb'_high rsv val

@[simp] theorem wrN_operand (rsv val : BitVec 32) :
    (rsv ++ val : BitVec 64).extractLsb' 0 32 = val := extractLsb'_low rsv val

@[simp] theorem read_prefix (sel : BitVec 6) : (0b01#2 ++ sel : BitVec 8).extractLsb' 6 2 = 0b01#2 :=
  extractLsb'_high 0b01#2 sel

@[simp] theorem read_selector (sel : BitVec 6) : (0b01#2 ++ sel : BitVec 8).extractLsb' 0 6 = sel :=
  extractLsb'_low 0b01#2 sel

/-- A word is its two fields. -/
theorem mkWord_fields (w : CommandWord) : mkWord (opcField w) (dataField w) = w := by
  apply BitVec.eq_of_getLsbD_eq
  intro i hi
  simp only [mkWord, opcField, dataField, BitVec.getLsbD_append, BitVec.getLsbD_extractLsb']
  by_cases h : i < 64
  · simp [h]
  · have : i - 64 < 8 := by omega
    simp [h, this, show 64 + (i - 64) = i by omega]

/-- A value cut in two is the two parts together. -/
theorem extractLsb'_append_parts {a b : Nat} (x : BitVec (a + b)) :
    x.extractLsb' b a ++ x.extractLsb' 0 b = x := by
  apply BitVec.eq_of_getLsbD_eq
  intro i hi
  simp only [BitVec.getLsbD_append, BitVec.getLsbD_extractLsb']
  by_cases h : i < b
  · simp [h]
  · have : i - b < a := by omega
    simp [h, this, show b + (i - b) = i by omega]

/-- With all 72 bits given, a table row's word is the command word itself. -/
theorem tableWord_toNat (w : CommandWord) : tableWord 72 w.toNat = w := by
  simp [tableWord]

end Sys2Proof
end

