-- ==== Sys2Proof/Laws/State.lean ====
section
/-! SUPPORT. One lemma per field per state operation, each true by unfolding, so that no later proof unfolds a
record update. -/

namespace Sys2Proof.Machine

/-! ### emitBit -/

@[simp] theorem emitBit_ctrl (b : Bool) (s : State) : (emitBit b s).ctrl = s.ctrl := rfl
@[simp] theorem emitBit_err (b : Bool) (s : State) : (emitBit b s).err = s.err := rfl
@[simp] theorem emitBit_staging (b : Bool) (s : State) : (emitBit b s).staging = s.staging := rfl
@[simp] theorem emitBit_active (b : Bool) (s : State) : (emitBit b s).active = s.active := rfl
@[simp] theorem emitBit_mark (b : Bool) (s : State) : (emitBit b s).mark = s.mark := rfl
@[simp] theorem emitBit_space (b : Bool) (s : State) : (emitBit b s).space = s.space := rfl
@[simp] theorem emitBit_cnt (b : Bool) (s : State) : (emitBit b s).cnt = s.cnt := rfl
@[simp] theorem emitBit_fullblk (b : Bool) (s : State) : (emitBit b s).fullblk = s.fullblk := rfl
@[simp] theorem emitBit_fbits (b : Bool) (s : State) : (emitBit b s).fbits = s.fbits := rfl
@[simp] theorem emitBit_fcnt (b : Bool) (s : State) : (emitBit b s).fcnt = s.fcnt := rfl
@[simp] theorem emitBit_bitOut (b : Bool) (s : State) : (emitBit b s).bitOut = s.bitOut ++ [b] := rfl
@[simp] theorem emitBit_charOut (b : Bool) (s : State) : (emitBit b s).charOut = s.charOut := rfl
@[simp] theorem emitBit_respOut (b : Bool) (s : State) : (emitBit b s).respOut = s.respOut := rfl
@[simp] theorem emitBit_inbox (b : Bool) (s : State) : (emitBit b s).inbox = s.inbox := rfl

/-! ### emitChar -/

@[simp] theorem emitChar_ctrl (c : BitVec 7) (s : State) : (emitChar c s).ctrl = s.ctrl := rfl
@[simp] theorem emitChar_err (c : BitVec 7) (s : State) : (emitChar c s).err = s.err := rfl
@[simp] theorem emitChar_staging (c : BitVec 7) (s : State) : (emitChar c s).staging = s.staging := rfl
@[simp] theorem emitChar_active (c : BitVec 7) (s : State) : (emitChar c s).active = s.active := rfl
@[simp] theorem emitChar_mark (c : BitVec 7) (s : State) : (emitChar c s).mark = s.mark := rfl
@[simp] theorem emitChar_space (c : BitVec 7) (s : State) : (emitChar c s).space = s.space := rfl
@[simp] theorem emitChar_cnt (c : BitVec 7) (s : State) : (emitChar c s).cnt = s.cnt := rfl
@[simp] theorem emitChar_fullblk (c : BitVec 7) (s : State) : (emitChar c s).fullblk = s.fullblk := rfl
@[simp] theorem emitChar_fbits (c : BitVec 7) (s : State) : (emitChar c s).fbits = s.fbits := rfl
@[simp] theorem emitChar_fcnt (c : BitVec 7) (s : State) : (emitChar c s).fcnt = s.fcnt := rfl
@[simp] theorem emitChar_bitOut (c : BitVec 7) (s : State) : (emitChar c s).bitOut = s.bitOut := rfl
@[simp] theorem emitChar_charOut (c : BitVec 7) (s : State) : (emitChar c s).charOut = s.charOut ++ [c] := rfl
@[simp] theorem emitChar_respOut (c : BitVec 7) (s : State) : (emitChar c s).respOut = s.respOut := rfl
@[simp] theorem emitChar_inbox (c : BitVec 7) (s : State) : (emitChar c s).inbox = s.inbox := rfl

/-! ### emitResp -/

@[simp] theorem emitResp_ctrl (v : BitVec 64) (s : State) : (emitResp v s).ctrl = s.ctrl := rfl
@[simp] theorem emitResp_err (v : BitVec 64) (s : State) : (emitResp v s).err = s.err := rfl
@[simp] theorem emitResp_staging (v : BitVec 64) (s : State) : (emitResp v s).staging = s.staging := rfl
@[simp] theorem emitResp_active (v : BitVec 64) (s : State) : (emitResp v s).active = s.active := rfl
@[simp] theorem emitResp_mark (v : BitVec 64) (s : State) : (emitResp v s).mark = s.mark := rfl
@[simp] theorem emitResp_space (v : BitVec 64) (s : State) : (emitResp v s).space = s.space := rfl
@[simp] theorem emitResp_cnt (v : BitVec 64) (s : State) : (emitResp v s).cnt = s.cnt := rfl
@[simp] theorem emitResp_fullblk (v : BitVec 64) (s : State) : (emitResp v s).fullblk = s.fullblk := rfl
@[simp] theorem emitResp_fbits (v : BitVec 64) (s : State) : (emitResp v s).fbits = s.fbits := rfl
@[simp] theorem emitResp_fcnt (v : BitVec 64) (s : State) : (emitResp v s).fcnt = s.fcnt := rfl
@[simp] theorem emitResp_bitOut (v : BitVec 64) (s : State) : (emitResp v s).bitOut = s.bitOut := rfl
@[simp] theorem emitResp_charOut (v : BitVec 64) (s : State) : (emitResp v s).charOut = s.charOut := rfl
@[simp] theorem emitResp_respOut (v : BitVec 64) (s : State) : (emitResp v s).respOut = s.respOut ++ [v] := rfl
@[simp] theorem emitResp_inbox (v : BitVec 64) (s : State) : (emitResp v s).inbox = s.inbox := rfl

/-! ### reject -/

@[simp] theorem reject_ctrl (c : ErrCode) (s : State) : (reject c s).ctrl = if c = .badConfig then .cfgError else s.ctrl := rfl
@[simp] theorem reject_err (c : ErrCode) (s : State) : (reject c s).err = c := rfl
@[simp] theorem reject_staging (c : ErrCode) (s : State) : (reject c s).staging = s.staging := rfl
@[simp] theorem reject_active (c : ErrCode) (s : State) : (reject c s).active = s.active := rfl
@[simp] theorem reject_mark (c : ErrCode) (s : State) : (reject c s).mark = s.mark := rfl
@[simp] theorem reject_space (c : ErrCode) (s : State) : (reject c s).space = s.space := rfl
@[simp] theorem reject_cnt (c : ErrCode) (s : State) : (reject c s).cnt = s.cnt := rfl
@[simp] theorem reject_fullblk (c : ErrCode) (s : State) : (reject c s).fullblk = s.fullblk := rfl
@[simp] theorem reject_fbits (c : ErrCode) (s : State) : (reject c s).fbits = s.fbits := rfl
@[simp] theorem reject_fcnt (c : ErrCode) (s : State) : (reject c s).fcnt = s.fcnt := rfl
@[simp] theorem reject_bitOut (c : ErrCode) (s : State) : (reject c s).bitOut = s.bitOut := rfl
@[simp] theorem reject_charOut (c : ErrCode) (s : State) : (reject c s).charOut = s.charOut := rfl
@[simp] theorem reject_respOut (c : ErrCode) (s : State) : (reject c s).respOut = s.respOut := rfl
@[simp] theorem reject_inbox (c : ErrCode) (s : State) : (reject c s).inbox = s.inbox := rfl

/-! ### rejectRead -/

@[simp] theorem rejectRead_ctrl (c : ErrCode) (s : State) : (rejectRead c s).ctrl = if c = .badConfig then .cfgError else s.ctrl := rfl
@[simp] theorem rejectRead_err (c : ErrCode) (s : State) : (rejectRead c s).err = c := rfl
@[simp] theorem rejectRead_staging (c : ErrCode) (s : State) : (rejectRead c s).staging = s.staging := rfl
@[simp] theorem rejectRead_active (c : ErrCode) (s : State) : (rejectRead c s).active = s.active := rfl
@[simp] theorem rejectRead_mark (c : ErrCode) (s : State) : (rejectRead c s).mark = s.mark := rfl
@[simp] theorem rejectRead_space (c : ErrCode) (s : State) : (rejectRead c s).space = s.space := rfl
@[simp] theorem rejectRead_cnt (c : ErrCode) (s : State) : (rejectRead c s).cnt = s.cnt := rfl
@[simp] theorem rejectRead_fullblk (c : ErrCode) (s : State) : (rejectRead c s).fullblk = s.fullblk := rfl
@[simp] theorem rejectRead_fbits (c : ErrCode) (s : State) : (rejectRead c s).fbits = s.fbits := rfl
@[simp] theorem rejectRead_fcnt (c : ErrCode) (s : State) : (rejectRead c s).fcnt = s.fcnt := rfl
@[simp] theorem rejectRead_bitOut (c : ErrCode) (s : State) : (rejectRead c s).bitOut = s.bitOut := rfl
@[simp] theorem rejectRead_charOut (c : ErrCode) (s : State) : (rejectRead c s).charOut = s.charOut := rfl
@[simp] theorem rejectRead_respOut (c : ErrCode) (s : State) : (rejectRead c s).respOut = s.respOut ++ [0#64] := rfl
@[simp] theorem rejectRead_inbox (c : ErrCode) (s : State) : (rejectRead c s).inbox = s.inbox := rfl

/-! ### acknowledge -/

@[simp] theorem acknowledge_ctrl (s : State) : (acknowledge s).ctrl = s.ctrl := rfl
@[simp] theorem acknowledge_err (s : State) : (acknowledge s).err = .noError := rfl
@[simp] theorem acknowledge_staging (s : State) : (acknowledge s).staging = s.staging := rfl
@[simp] theorem acknowledge_active (s : State) : (acknowledge s).active = s.active := rfl
@[simp] theorem acknowledge_mark (s : State) : (acknowledge s).mark = s.mark := rfl
@[simp] theorem acknowledge_space (s : State) : (acknowledge s).space = s.space := rfl
@[simp] theorem acknowledge_cnt (s : State) : (acknowledge s).cnt = s.cnt := rfl
@[simp] theorem acknowledge_fullblk (s : State) : (acknowledge s).fullblk = s.fullblk := rfl
@[simp] theorem acknowledge_fbits (s : State) : (acknowledge s).fbits = s.fbits := rfl
@[simp] theorem acknowledge_fcnt (s : State) : (acknowledge s).fcnt = s.fcnt := rfl
@[simp] theorem acknowledge_bitOut (s : State) : (acknowledge s).bitOut = s.bitOut := rfl
@[simp] theorem acknowledge_charOut (s : State) : (acknowledge s).charOut = s.charOut := rfl
@[simp] theorem acknowledge_respOut (s : State) : (acknowledge s).respOut = s.respOut := rfl
@[simp] theorem acknowledge_inbox (s : State) : (acknowledge s).inbox = s.inbox := rfl

/-! ### clearFilters -/

@[simp] theorem clearFilters_ctrl (s : State) : (clearFilters s).ctrl = s.ctrl := rfl
@[simp] theorem clearFilters_err (s : State) : (clearFilters s).err = s.err := rfl
@[simp] theorem clearFilters_staging (s : State) : (clearFilters s).staging = s.staging := rfl
@[simp] theorem clearFilters_active (s : State) : (clearFilters s).active = s.active := rfl
@[simp] theorem clearFilters_mark (s : State) : (clearFilters s).mark = s.mark.clear := rfl
@[simp] theorem clearFilters_space (s : State) : (clearFilters s).space = s.space.clear := rfl
@[simp] theorem clearFilters_cnt (s : State) : (clearFilters s).cnt = s.cnt := rfl
@[simp] theorem clearFilters_fullblk (s : State) : (clearFilters s).fullblk = s.fullblk := rfl
@[simp] theorem clearFilters_fbits (s : State) : (clearFilters s).fbits = s.fbits := rfl
@[simp] theorem clearFilters_fcnt (s : State) : (clearFilters s).fcnt = s.fcnt := rfl
@[simp] theorem clearFilters_bitOut (s : State) : (clearFilters s).bitOut = s.bitOut := rfl
@[simp] theorem clearFilters_charOut (s : State) : (clearFilters s).charOut = s.charOut := rfl
@[simp] theorem clearFilters_respOut (s : State) : (clearFilters s).respOut = s.respOut := rfl
@[simp] theorem clearFilters_inbox (s : State) : (clearFilters s).inbox = s.inbox := rfl

/-! ### frameDiscard -/

@[simp] theorem frameDiscard_ctrl (s : State) : (frameDiscard s).ctrl = s.ctrl := rfl
@[simp] theorem frameDiscard_err (s : State) : (frameDiscard s).err = s.err := rfl
@[simp] theorem frameDiscard_staging (s : State) : (frameDiscard s).staging = s.staging := rfl
@[simp] theorem frameDiscard_active (s : State) : (frameDiscard s).active = s.active := rfl
@[simp] theorem frameDiscard_mark (s : State) : (frameDiscard s).mark = s.mark := rfl
@[simp] theorem frameDiscard_space (s : State) : (frameDiscard s).space = s.space := rfl
@[simp] theorem frameDiscard_cnt (s : State) : (frameDiscard s).cnt = s.cnt := rfl
@[simp] theorem frameDiscard_fullblk (s : State) : (frameDiscard s).fullblk = s.fullblk := rfl
@[simp] theorem frameDiscard_fbits (s : State) : (frameDiscard s).fbits = 0#10 := rfl
@[simp] theorem frameDiscard_fcnt (s : State) : (frameDiscard s).fcnt = 0#4 := rfl
@[simp] theorem frameDiscard_bitOut (s : State) : (frameDiscard s).bitOut = s.bitOut := rfl
@[simp] theorem frameDiscard_charOut (s : State) : (frameDiscard s).charOut = s.charOut := rfl
@[simp] theorem frameDiscard_respOut (s : State) : (frameDiscard s).respOut = s.respOut := rfl
@[simp] theorem frameDiscard_inbox (s : State) : (frameDiscard s).inbox = s.inbox := rfl

/-! ### feed -/

@[simp] theorem feed_ctrl (v : F64) (s : State) : (feed v s).ctrl = s.ctrl := rfl
@[simp] theorem feed_err (v : F64) (s : State) : (feed v s).err = s.err := rfl
@[simp] theorem feed_staging (v : F64) (s : State) : (feed v s).staging = s.staging := rfl
@[simp] theorem feed_active (v : F64) (s : State) : (feed v s).active = s.active := rfl
@[simp] theorem feed_mark (v : F64) (s : State) : (feed v s).mark = s.mark.step .mark v := rfl
@[simp] theorem feed_space (v : F64) (s : State) : (feed v s).space = s.space.step .space v := rfl
@[simp] theorem feed_cnt (v : F64) (s : State) : (feed v s).cnt = s.cnt + 1#32 := rfl
@[simp] theorem feed_fullblk (v : F64) (s : State) : (feed v s).fullblk = s.fullblk := rfl
@[simp] theorem feed_fbits (v : F64) (s : State) : (feed v s).fbits = s.fbits := rfl
@[simp] theorem feed_fcnt (v : F64) (s : State) : (feed v s).fcnt = s.fcnt := rfl
@[simp] theorem feed_bitOut (v : F64) (s : State) : (feed v s).bitOut = s.bitOut := rfl
@[simp] theorem feed_charOut (v : F64) (s : State) : (feed v s).charOut = s.charOut := rfl
@[simp] theorem feed_respOut (v : F64) (s : State) : (feed v s).respOut = s.respOut := rfl
@[simp] theorem feed_inbox (v : F64) (s : State) : (feed v s).inbox = s.inbox := rfl

/-! ### applyReset -/

@[simp] theorem applyReset_ctrl (s : State) : (applyReset s).ctrl = .unconfigured := rfl
@[simp] theorem applyReset_err (s : State) : (applyReset s).err = .noError := rfl
@[simp] theorem applyReset_staging (s : State) : (applyReset s).staging = .stagingReset := rfl
@[simp] theorem applyReset_active (s : State) : (applyReset s).active = .zero := rfl
@[simp] theorem applyReset_mark (s : State) : (applyReset s).mark = .zero s.mark.draws := rfl
@[simp] theorem applyReset_space (s : State) : (applyReset s).space = .zero s.space.draws := rfl
@[simp] theorem applyReset_cnt (s : State) : (applyReset s).cnt = 0#32 := rfl
@[simp] theorem applyReset_fullblk (s : State) : (applyReset s).fullblk = false := rfl
@[simp] theorem applyReset_fbits (s : State) : (applyReset s).fbits = 0#10 := rfl
@[simp] theorem applyReset_fcnt (s : State) : (applyReset s).fcnt = 0#4 := rfl
@[simp] theorem applyReset_bitOut (s : State) : (applyReset s).bitOut = s.bitOut := rfl
@[simp] theorem applyReset_charOut (s : State) : (applyReset s).charOut = s.charOut := rfl
@[simp] theorem applyReset_respOut (s : State) : (applyReset s).respOut = s.respOut := rfl
@[simp] theorem applyReset_inbox (s : State) : (applyReset s).inbox = s.inbox := rfl

/-! ### construct -/

@[simp] theorem construct_ctrl (s : State) : (construct s).ctrl = .configured := rfl
@[simp] theorem construct_err (s : State) : (construct s).err = s.err := rfl
@[simp] theorem construct_staging (s : State) : (construct s).staging = s.staging := rfl
@[simp] theorem construct_active (s : State) : (construct s).active = s.staging := rfl
@[simp] theorem construct_mark (s : State) : (construct s).mark = s.mark.derive .mark s.staging.n s.staging.markf s.staging.rate := rfl
@[simp] theorem construct_space (s : State) : (construct s).space = s.space.derive .space s.staging.n s.staging.spacef s.staging.rate := rfl
@[simp] theorem construct_cnt (s : State) : (construct s).cnt = 0#32 := rfl
@[simp] theorem construct_fullblk (s : State) : (construct s).fullblk = false := rfl
@[simp] theorem construct_fbits (s : State) : (construct s).fbits = 0#10 := rfl
@[simp] theorem construct_fcnt (s : State) : (construct s).fcnt = 0#4 := rfl
@[simp] theorem construct_bitOut (s : State) : (construct s).bitOut = s.bitOut := rfl
@[simp] theorem construct_charOut (s : State) : (construct s).charOut = s.charOut := rfl
@[simp] theorem construct_respOut (s : State) : (construct s).respOut = s.respOut := rfl
@[simp] theorem construct_inbox (s : State) : (construct s).inbox = s.inbox := rfl

/-! ### The filter operations -/

@[simp] theorem Filter.step_coeff (t : Tone) (v : F64) (f : Filter) : (f.step t v).coeff = f.coeff := rfl
@[simp] theorem Filter.step_cos (t : Tone) (v : F64) (f : Filter) : (f.step t v).cos = f.cos := rfl
@[simp] theorem Filter.step_sin (t : Tone) (v : F64) (f : Filter) : (f.step t v).sin = f.sin := rfl
@[simp] theorem Filter.step_k (t : Tone) (v : F64) (f : Filter) : (f.step t v).k = f.k := rfl
@[simp] theorem Filter.step_kint (t : Tone) (v : F64) (f : Filter) : (f.step t v).kint = f.kint := rfl
@[simp] theorem Filter.step_q1 (t : Tone) (v : F64) (f : Filter) : (f.step t v).q1 = fadd (f.nan t 2) (fsub (f.nan t 1) (fmul (f.nan t 0) f.coeff f.q1) f.q2) v := rfl
@[simp] theorem Filter.step_q2 (t : Tone) (v : F64) (f : Filter) : (f.step t v).q2 = f.q1 := rfl
@[simp] theorem Filter.step_draws (t : Tone) (v : F64) (f : Filter) : (f.step t v).draws = f.draws + 3 := rfl

@[simp] theorem Filter.clear_coeff (f : Filter) : (f.clear).coeff = f.coeff := rfl
@[simp] theorem Filter.clear_cos (f : Filter) : (f.clear).cos = f.cos := rfl
@[simp] theorem Filter.clear_sin (f : Filter) : (f.clear).sin = f.sin := rfl
@[simp] theorem Filter.clear_k (f : Filter) : (f.clear).k = f.k := rfl
@[simp] theorem Filter.clear_kint (f : Filter) : (f.clear).kint = f.kint := rfl
@[simp] theorem Filter.clear_q1 (f : Filter) : (f.clear).q1 = posZero := rfl
@[simp] theorem Filter.clear_q2 (f : Filter) : (f.clear).q2 = posZero := rfl
@[simp] theorem Filter.clear_draws (f : Filter) : (f.clear).draws = f.draws := rfl

@[simp] theorem Filter.spend_coeff (c : Nat) (f : Filter) : (f.spend c).coeff = f.coeff := rfl
@[simp] theorem Filter.spend_cos (c : Nat) (f : Filter) : (f.spend c).cos = f.cos := rfl
@[simp] theorem Filter.spend_sin (c : Nat) (f : Filter) : (f.spend c).sin = f.sin := rfl
@[simp] theorem Filter.spend_k (c : Nat) (f : Filter) : (f.spend c).k = f.k := rfl
@[simp] theorem Filter.spend_kint (c : Nat) (f : Filter) : (f.spend c).kint = f.kint := rfl
@[simp] theorem Filter.spend_q1 (c : Nat) (f : Filter) : (f.spend c).q1 = f.q1 := rfl
@[simp] theorem Filter.spend_q2 (c : Nat) (f : Filter) : (f.spend c).q2 = f.q2 := rfl
@[simp] theorem Filter.spend_draws (c : Nat) (f : Filter) : (f.spend c).draws = f.draws + c := rfl

@[simp] theorem Filter.zero_coeff (d : Nat) : (Filter.zero d).coeff = 0#64 := rfl
@[simp] theorem Filter.zero_cos (d : Nat) : (Filter.zero d).cos = 0#64 := rfl
@[simp] theorem Filter.zero_sin (d : Nat) : (Filter.zero d).sin = 0#64 := rfl
@[simp] theorem Filter.zero_k (d : Nat) : (Filter.zero d).k = 0#64 := rfl
@[simp] theorem Filter.zero_kint (d : Nat) : (Filter.zero d).kint = 0#64 := rfl
@[simp] theorem Filter.zero_q1 (d : Nat) : (Filter.zero d).q1 = 0#64 := rfl
@[simp] theorem Filter.zero_q2 (d : Nat) : (Filter.zero d).q2 = 0#64 := rfl
@[simp] theorem Filter.zero_draws (d : Nat) : (Filter.zero d).draws = d := rfl

/-! ### The filters by name -/

@[simp] theorem filter_mark (s : State) : s.filter .mark = s.mark := rfl
@[simp] theorem filter_space (s : State) : s.filter .space = s.space := rfl
@[simp] theorem setFilter_mark (s : State) (f : Filter) : s.setFilter .mark f = { s with mark := f } := rfl
@[simp] theorem setFilter_space (s : State) (f : Filter) : s.setFilter .space f = { s with space := f } := rfl

end Sys2Proof.Machine
end

