-- ==== Sys2Proof/Laws/Ops.lean ====
section
/-! SUPPORT. What each shared operation of the frame decoder, the comparator and READ can do, said once. -/

namespace Sys2Proof.Machine

/-! ### The frame register (42_frame_decoder.md) -/

/-- A cell write changes its cell and no other. -/
theorem getLsbD_setCell (fbits : BitVec 10) (i j : Nat) (b : Bool) (hj : j < 10) :
    (setCell fbits i b).getLsbD j = if j = i then b else fbits.getLsbD j := by
  by_cases h : j = i
  · subst h; cases b <;> simp [setCell, hj]
  · rcases Nat.lt_or_ge j i with hlt | hge
    · simp [setCell, hj, h, hlt]
    · have h1 : ¬ j < i := by omega
      have h2 : j - i ≠ 0 := by omega
      cases b <;> simp [setCell, hj, h, h1, h2]

/-- The characters a full frame emits. -/
def emitted (c : BitVec 10) : List (BitVec 7) := if frameValid c then [frameCode c] else []

theorem emitted_length (c : BitVec 10) : (emitted c).length ≤ 1 := by
  unfold emitted; split <;> simp

theorem decodeFrame_eq (c : BitVec 10) (s : State) :
    decodeFrame c s = { s with charOut := s.charOut ++ emitted c } := by
  unfold decodeFrame emitted
  split
  · rfl
  · simp

/-- ASM_PUSH on the tenth bit. -/
theorem asmPush_last (b : Bool) (s : State) (h : s.fcnt = 9#4) :
    asmPush b s = { s with
      fbits := 0#10, fcnt := 0#4, bitOut := s.bitOut ++ [b]
      charOut := s.charOut ++ emitted (setCell s.fbits 9 b) } := by
  simp [asmPush, decodeFrame_eq, frameDiscard, emitBit, h]

/-- ASM_PUSH on any earlier bit. -/
theorem asmPush_early (b : Bool) (s : State) (h : s.fcnt ≠ 9#4) :
    asmPush b s = { s with
      fbits := setCell s.fbits s.fcnt.toNat b, fcnt := s.fcnt + 1#4, bitOut := s.bitOut ++ [b] } := by
  have h10 : s.fcnt + 1#4 ≠ 10#4 := by
    revert h; generalize s.fcnt = c; revert c; decide
  simp [asmPush, emitBit, h10]

/-- ASM_PUSH touches the frame register, appends its bit and at most one character, and nothing else. -/
theorem asmPush_eq (b : Bool) (s : State) :
    ∃ fbits fcnt chars, chars.length ≤ 1 ∧
      asmPush b s = { s with
        fbits := fbits, fcnt := fcnt, bitOut := s.bitOut ++ [b], charOut := s.charOut ++ chars } := by
  by_cases h : s.fcnt = 9#4
  · exact ⟨_, _, _, emitted_length _, asmPush_last b s h⟩
  · exact ⟨setCell s.fbits s.fcnt.toNat b, s.fcnt + 1#4, [], by simp, by rw [asmPush_early b s h]; simp⟩

@[simp] theorem asmPush_bitOut (b : Bool) (s : State) : (asmPush b s).bitOut = s.bitOut ++ [b] := by
  obtain ⟨_, _, _, _, h⟩ := asmPush_eq b s; simp [h]
@[simp] theorem asmPush_ctrl (b : Bool) (s : State) : (asmPush b s).ctrl = s.ctrl := by
  obtain ⟨_, _, _, _, h⟩ := asmPush_eq b s; simp [h]
@[simp] theorem asmPush_err (b : Bool) (s : State) : (asmPush b s).err = s.err := by
  obtain ⟨_, _, _, _, h⟩ := asmPush_eq b s; simp [h]
@[simp] theorem asmPush_staging (b : Bool) (s : State) : (asmPush b s).staging = s.staging := by
  obtain ⟨_, _, _, _, h⟩ := asmPush_eq b s; simp [h]
@[simp] theorem asmPush_active (b : Bool) (s : State) : (asmPush b s).active = s.active := by
  obtain ⟨_, _, _, _, h⟩ := asmPush_eq b s; simp [h]
@[simp] theorem asmPush_mark (b : Bool) (s : State) : (asmPush b s).mark = s.mark := by
  obtain ⟨_, _, _, _, h⟩ := asmPush_eq b s; simp [h]
@[simp] theorem asmPush_space (b : Bool) (s : State) : (asmPush b s).space = s.space := by
  obtain ⟨_, _, _, _, h⟩ := asmPush_eq b s; simp [h]
@[simp] theorem asmPush_cnt (b : Bool) (s : State) : (asmPush b s).cnt = s.cnt := by
  obtain ⟨_, _, _, _, h⟩ := asmPush_eq b s; simp [h]
@[simp] theorem asmPush_fullblk (b : Bool) (s : State) : (asmPush b s).fullblk = s.fullblk := by
  obtain ⟨_, _, _, _, h⟩ := asmPush_eq b s; simp [h]
@[simp] theorem asmPush_respOut (b : Bool) (s : State) : (asmPush b s).respOut = s.respOut := by
  obtain ⟨_, _, _, _, h⟩ := asmPush_eq b s; simp [h]
@[simp] theorem asmPush_inbox (b : Bool) (s : State) : (asmPush b s).inbox = s.inbox := by
  obtain ⟨_, _, _, _, h⟩ := asmPush_eq b s; simp [h]

/-! ### The comparator (41_tone_comparator.md) -/

/-- The state a block end hands to ASM_PUSH. -/
def closedBlock (s : State) : State := { clearFilters s with cnt := 0#32, fullblk := true }

theorem blockEnd_eq (s : State) : blockEnd s = asmPush (decideBit s) (closedBlock s) := rfl

/-- The three things FLUSH_BLOCK can do. -/
theorem flushBlock_cases (s : State) :
    (s.cnt = 0#32 ∧ flushBlock s = { s with fullblk := false }) ∨
    (s.cnt ≠ 0#32 ∧ s.fullblk = true ∧ flushBlock s = { blockEnd s with fullblk := false }) ∨
    (s.cnt ≠ 0#32 ∧ s.fullblk = false ∧
      flushBlock s = { clearFilters s with cnt := 0#32, fullblk := false }) := by
  by_cases h : s.cnt = 0#32
  · exact .inl ⟨h, by simp [flushBlock, h]⟩
  · cases hf : s.fullblk
    · exact .inr (.inr ⟨h, rfl, by simp [flushBlock, h, hf]⟩)
    · exact .inr (.inl ⟨h, rfl, by simp [flushBlock, h, hf]⟩)

/-- The two things an accepted SAMPLE can do. -/
theorem acceptSample_cases (smp : BitVec 16) (s : State) :
    (s.cnt + 1#32 ≠ s.active.n ∧ acceptSample smp s = feed (i16ToF64 smp) s) ∨
    (s.cnt + 1#32 = s.active.n ∧ acceptSample smp s = blockEnd (feed (i16ToF64 smp) s)) := by
  by_cases h : s.cnt + 1#32 = s.active.n
  · exact .inr ⟨h, by simp [acceptSample, sampleValue, h]⟩
  · exact .inl ⟨h, by simp [acceptSample, sampleValue, h]⟩

/-! ### READ (10_state.md R26) -/

/-- A READ's use of draws moves the draw counters and nothing else. -/
theorem spendRead_eq (s : State) (r : ReadTarget) :
    ∃ dM dS, spendRead s r =
      { s with mark := { s.mark with draws := dM }, space := { s.space with draws := dS } } := by
  cases r with
  | filter t v => cases t <;> exact ⟨_, _, rfl⟩
  | _ => exact ⟨s.mark.draws, s.space.draws, rfl⟩

end Sys2Proof.Machine
end

