-- ==== Sys2Proof/Laws/PerInstr.lean ====
section
/-! SUPPORT. A statement about every command as syntax, one lemma per constructor: the two fields of its word. -/

namespace Sys2Proof.Laws

/-- The opcode of 30_encoding.md R44, for READ `0x40 + SEL` (R43). -/
def opcodeOf : Instr → BitVec 8
  | .nop _ => 0x00#8
  | .sample _ _ => 0x01#8
  | .endRun _ => 0x02#8
  | .configure _ => 0x03#8
  | .clearErr _ => 0x04#8
  | .wrRate _ => 0x10#8
  | .wrN _ _ => 0x11#8
  | .wrMarkf _ => 0x12#8
  | .wrSpacef _ => 0x13#8
  | .read sel _ => 0x40#8 + sel.setWidth 8

/-- The DATA field of the formats of R39: reserved bits above the operand. -/
def dataOf : Instr → BitVec 64
  | .nop data | .endRun data | .configure data | .clearErr data | .read _ data => data
  | .wrRate fv | .wrMarkf fv | .wrSpacef fv => fv
  | .sample rsv smp => rsv ++ smp
  | .wrN rsv val => rsv ++ val

namespace WordFields

/-- The word of `i` is its opcode and its DATA. -/
def Statement (i : Instr) : Prop := opcField (encode i) = opcodeOf i ∧ dataField (encode i) = dataOf i

theorem nop (data : BitVec 64) : Statement (.nop data) := ⟨opcField_mkWord _ _, dataField_mkWord _ _⟩
theorem sample (rsv : BitVec 48) (smp : BitVec 16) : Statement (.sample rsv smp) :=
  ⟨opcField_mkWord _ _, dataField_mkWord _ _⟩
theorem endRun (data : BitVec 64) : Statement (.endRun data) := ⟨opcField_mkWord _ _, dataField_mkWord _ _⟩
theorem configure (data : BitVec 64) : Statement (.configure data) := ⟨opcField_mkWord _ _, dataField_mkWord _ _⟩
theorem clearErr (data : BitVec 64) : Statement (.clearErr data) := ⟨opcField_mkWord _ _, dataField_mkWord _ _⟩
theorem wrRate (fv : BitVec 64) : Statement (.wrRate fv) := ⟨opcField_mkWord _ _, dataField_mkWord _ _⟩
theorem wrN (rsv val : BitVec 32) : Statement (.wrN rsv val) := ⟨opcField_mkWord _ _, dataField_mkWord _ _⟩
theorem wrMarkf (fv : BitVec 64) : Statement (.wrMarkf fv) := ⟨opcField_mkWord _ _, dataField_mkWord _ _⟩
theorem wrSpacef (fv : BitVec 64) : Statement (.wrSpacef fv) := ⟨opcField_mkWord _ _, dataField_mkWord _ _⟩
theorem read (sel : BitVec 6) (data : BitVec 64) : Statement (.read sel data) := by
  have h : ∀ s : BitVec 6, (0b01#2 ++ s : BitVec 8) = 0x40#8 + s.setWidth 8 := by decide
  exact ⟨(opcField_mkWord _ _).trans (h sel), dataField_mkWord _ _⟩

end WordFields

end Sys2Proof.Laws
end

