-- ==== Sys2Proof/Laws/Step.lean ====
section
/-! SUPPORT. What a command and a step can do, said once; the invariants and frames are derived from these. -/

namespace Sys2Proof.Machine

/-! ### The meanings: which of their checks decide (60_exceptions.md R90) -/

/-- What SAMPLE answers. -/
theorem execSample_cases (rsv : BitVec 48) (smp : BitVec 16) (s : State) :
    (rsv ≠ 0#48 ∧ execSample rsv smp s = .next (reject .reservedNonzero s)) ∨
    (rsv = 0#48 ∧ s.ctrl ≠ .configured ∧ execSample rsv smp s = .next (reject .notConfigured s)) ∨
    (rsv = 0#48 ∧ s.ctrl = .configured ∧ execSample rsv smp s = .next (acceptSample smp s)) := by
  by_cases h1 : rsv = 0#48 <;> by_cases h2 : s.ctrl = .configured <;> simp [execSample, h1, h2]

/-- What END answers. -/
theorem execEndRun_cases (data : BitVec 64) (s : State) :
    (data ≠ 0#64 ∧ execEndRun data s = .next (reject .reservedNonzero s)) ∨
    (data = 0#64 ∧ s.ctrl ≠ .configured ∧ execEndRun data s = .next (reject .notConfigured s)) ∨
    (data = 0#64 ∧ s.ctrl = .configured ∧ execEndRun data s = .next (frameDiscard (flushBlock s))) := by
  by_cases h1 : data = 0#64 <;> by_cases h2 : s.ctrl = .configured <;> simp [execEndRun, h1, h2]

/-- What CONFIGURE answers. -/
theorem execConfigure_cases (data : BitVec 64) (s : State) :
    (data ≠ 0#64 ∧ execConfigure data s = .next (reject .reservedNonzero s)) ∨
    (data = 0#64 ∧ validConfig s.staging = false ∧ execConfigure data s = .next (reject .badConfig s)) ∨
    (data = 0#64 ∧ validConfig s.staging = true ∧ execConfigure data s = .next (construct s)) := by
  by_cases h1 : data = 0#64 <;> by_cases h2 : validConfig s.staging = true <;> simp [execConfigure, h1, h2]

/-- What READ answers. -/
theorem execRead_cases (sel : BitVec 6) (data : BitVec 64) (s : State) :
    (data ≠ 0#64 ∧ execRead sel data s = .next (rejectRead .reservedNonzero s)) ∨
    (data = 0#64 ∧ readTarget sel = none ∧ execRead sel data s = .next (rejectRead .badSelect s)) ∨
    (∃ r, data = 0#64 ∧ readTarget sel = some r ∧
      execRead sel data s = .next (emitResp (readValue s r) (spendRead s r))) := by
  by_cases h1 : data = 0#64
  · cases h2 : readTarget sel with
    | none => exact .inr (.inl ⟨h1, rfl, by simp [execRead, h1, h2]⟩)
    | some r => exact .inr (.inr ⟨r, h1, rfl, by simp [execRead, h1, h2]⟩)
  · exact .inl ⟨h1, by simp [execRead, h1]⟩

/-! ### All commands at once -/

/-- Everything a command can do to a state: it is rejected, or has its one effect. -/
inductive Effect (s : State) : Instr → State → Prop where
  | unchanged : Effect s (.nop 0#64) s
  | reserved (i : Instr) (h : ∀ sel data, i ≠ .read sel data) : i.wellFormed = false →
      Effect s i (reject .reservedNonzero s)
  | readReserved (sel : BitVec 6) (data : BitVec 64) : data ≠ 0#64 →
      Effect s (.read sel data) (rejectRead .reservedNonzero s)
  | sampleRefused (smp : BitVec 16) : s.ctrl ≠ .configured →
      Effect s (.sample 0#48 smp) (reject .notConfigured s)
  | sampleWithinBlock (smp : BitVec 16) : s.ctrl = .configured → s.cnt + 1#32 ≠ s.active.n →
      Effect s (.sample 0#48 smp) (feed (i16ToF64 smp) s)
  | sampleEndingBlock (smp : BitVec 16) : s.ctrl = .configured → s.cnt + 1#32 = s.active.n →
      Effect s (.sample 0#48 smp) (blockEnd (feed (i16ToF64 smp) s))
  | endRefused : s.ctrl ≠ .configured → Effect s (.endRun 0#64) (reject .notConfigured s)
  | endRun : s.ctrl = .configured → Effect s (.endRun 0#64) (frameDiscard (flushBlock s))
  | configureRefused : validConfig s.staging = false → Effect s (.configure 0#64) (reject .badConfig s)
  | configure : validConfig s.staging = true → Effect s (.configure 0#64) (construct s)
  | clearErr : Effect s (.clearErr 0#64) (acknowledge s)
  | wrRate (fv : BitVec 64) : Effect s (.wrRate fv) { s with staging := { s.staging with rate := fv } }
  | wrN (val : BitVec 32) : Effect s (.wrN 0#32 val) { s with staging := { s.staging with n := val } }
  | wrMarkf (fv : BitVec 64) : Effect s (.wrMarkf fv) { s with staging := { s.staging with markf := fv } }
  | wrSpacef (fv : BitVec 64) : Effect s (.wrSpacef fv) { s with staging := { s.staging with spacef := fv } }
  | readUnassigned (sel : BitVec 6) : readTarget sel = none →
      Effect s (.read sel 0#64) (rejectRead .badSelect s)
  | read (sel : BitVec 6) (r : ReadTarget) : readTarget sel = some r →
      Effect s (.read sel 0#64) (emitResp (readValue s r) (spendRead s r))

/-- Every command answers a next state, by one of its effects. -/
theorem exec_effect (i : Instr) (s : State) : ∃ t, exec i s = .next t ∧ Effect s i t := by
  cases i with
  | nop data =>
    by_cases h : data = 0#64
    · subst h; exact ⟨s, by simp [exec, execNop], .unchanged⟩
    · exact ⟨_, by simp [exec, execNop, h], .reserved _ (by simp) (by simpa [Instr.wellFormed] using h)⟩
  | sample rsv smp =>
    rcases execSample_cases rsv smp s with ⟨h, e⟩ | ⟨rfl, h, e⟩ | ⟨rfl, h, e⟩
    · exact ⟨_, e, .reserved _ (by simp) (by simpa [Instr.wellFormed] using h)⟩
    · exact ⟨_, e, .sampleRefused smp h⟩
    · rcases acceptSample_cases smp s with ⟨hc, ha⟩ | ⟨hc, ha⟩
      · exact ⟨_, e, ha ▸ .sampleWithinBlock smp h hc⟩
      · exact ⟨_, e, ha ▸ .sampleEndingBlock smp h hc⟩
  | endRun data =>
    rcases execEndRun_cases data s with ⟨h, e⟩ | ⟨rfl, h, e⟩ | ⟨rfl, h, e⟩
    · exact ⟨_, e, .reserved _ (by simp) (by simpa [Instr.wellFormed] using h)⟩
    · exact ⟨_, e, .endRefused h⟩
    · exact ⟨_, e, .endRun h⟩
  | configure data =>
    rcases execConfigure_cases data s with ⟨h, e⟩ | ⟨rfl, h, e⟩ | ⟨rfl, h, e⟩
    · exact ⟨_, e, .reserved _ (by simp) (by simpa [Instr.wellFormed] using h)⟩
    · exact ⟨_, e, .configureRefused h⟩
    · exact ⟨_, e, .configure h⟩
  | clearErr data =>
    by_cases h : data = 0#64
    · subst h; exact ⟨_, by simp [exec, execClearErr], .clearErr⟩
    · exact ⟨_, by simp [exec, execClearErr, h], .reserved _ (by simp) (by simpa [Instr.wellFormed] using h)⟩
  | wrRate fv => exact ⟨_, rfl, .wrRate fv⟩
  | wrN rsv val =>
    by_cases h : rsv = 0#32
    · subst h; exact ⟨_, by simp [exec, execWrN], .wrN val⟩
    · exact ⟨_, by simp [exec, execWrN, h], .reserved _ (by simp) (by simpa [Instr.wellFormed] using h)⟩
  | wrMarkf fv => exact ⟨_, rfl, .wrMarkf fv⟩
  | wrSpacef fv => exact ⟨_, rfl, .wrSpacef fv⟩
  | read sel data =>
    rcases execRead_cases sel data s with ⟨h, e⟩ | ⟨rfl, h, e⟩ | ⟨r, rfl, h, e⟩
    · exact ⟨_, e, .readReserved sel data h⟩
    · exact ⟨_, e, .readUnassigned sel h⟩
    · exact ⟨_, e, .read sel r h⟩

/-- Inversion of `exec`: a next state is one of the command's effects. -/
theorem effect_of_exec {i : Instr} {s t : State} (h : exec i s = .next t) : Effect s i t := by
  obtain ⟨t', e, he⟩ := exec_effect i s
  rw [e] at h; cases h; exact he

/-! ### One step -/

/-- The state with the host's next input taken. -/
def State.taken (s : State) (rest : List HostInput) : State := { s with inbox := rest }

theorem step_idle {s : State} (h : s.inbox = []) : step s = .next s := by simp [step, takeInput, h, idle]

theorem step_reset {s : State} {rest : List HostInput} (h : s.inbox = .reset :: rest) :
    step s = .next (applyReset (s.taken rest)) := by simp [step, takeInput, h, State.taken]

theorem step_instr {s : State} {w : CommandWord} {rest : List HostInput} {i : Instr}
    (h : s.inbox = .command w :: rest) (hd : decode w = .instr i) : step s = exec i (s.taken rest) := by
  simp [step, takeInput, h, hd, State.taken]

theorem step_illegal {s : State} {w : CommandWord} {rest : List HostInput}
    (h : s.inbox = .command w :: rest) (hd : decode w = .illegalOpcode) :
    step s = .next (reject .illegalOpcode (s.taken rest)) := by
  simp [step, takeInput, h, hd, State.taken]

/-- Inversion of `step`: idle, the reset event, a command's effect, or an illegal word. -/
theorem step_cases {s t : State} (h : step s = .next t) :
    (s.inbox = [] ∧ t = s) ∨
    (∃ rest, s.inbox = .reset :: rest ∧ t = applyReset (s.taken rest)) ∨
    (∃ w rest i, s.inbox = .command w :: rest ∧ decode w = .instr i ∧ Effect (s.taken rest) i t) ∨
    (∃ w rest, s.inbox = .command w :: rest ∧ decode w = .illegalOpcode ∧
      t = reject .illegalOpcode (s.taken rest)) := by
  rcases hs : s.inbox with _ | ⟨w | _, rest⟩
  · rw [step_idle hs] at h; cases h; exact .inl ⟨rfl, rfl⟩
  · cases hd : decode w with
    | instr i =>
      rw [step_instr hs hd] at h
      exact .inr (.inr (.inl ⟨w, rest, i, rfl, hd, effect_of_exec h⟩))
    | illegalOpcode =>
      rw [step_illegal hs hd] at h; cases h
      exact .inr (.inr (.inr ⟨w, rest, rfl, hd, rfl⟩))
  · rw [step_reset hs] at h; cases h
    exact .inr (.inl ⟨rest, rfl, rfl⟩)

end Sys2Proof.Machine
end

