-- ==== Sys2Proof/Laws/ToneFilter.lean ====
section
/-! SUPPORT. The ToneFilter operations: their fields, and PROCESS sample by sample. -/

namespace Sys2Proof.Machine

theorem isNaN_filter_nan (t : Tone) (f : Filter) (j : Nat) : isNaN (f.nan t j) = true := isNaN_nanDraw t _

@[simp] theorem step_q2 (t : Tone) (f : Filter) (v : F64) : (f.step t v).q2 = f.q1 := rfl
@[simp] theorem step_coeff (t : Tone) (f : Filter) (v : F64) : (f.step t v).coeff = f.coeff := rfl
@[simp] theorem step_cos (t : Tone) (f : Filter) (v : F64) : (f.step t v).cos = f.cos := rfl
@[simp] theorem step_sin (t : Tone) (f : Filter) (v : F64) : (f.step t v).sin = f.sin := rfl
@[simp] theorem step_k (t : Tone) (f : Filter) (v : F64) : (f.step t v).k = f.k := rfl
@[simp] theorem step_kint (t : Tone) (f : Filter) (v : F64) : (f.step t v).kint = f.kint := rfl
@[simp] theorem step_draws (t : Tone) (f : Filter) (v : F64) : (f.step t v).draws = f.draws + 3 := rfl

@[simp] theorem process_nil (t : Tone) (f : Filter) : f.process t [] = f := rfl
@[simp] theorem process_cons (t : Tone) (f : Filter) (v : F64) (seq : List F64) :
    f.process t (v :: seq) = (f.step t v).process t seq := rfl

end Sys2Proof.Machine
end

