-- ==== Sys2Proof/Tests/Slice0.lean ====
section
/-! SUPPORT. Tests with results taken from the spec's tables and vectors (95_test_vectors.md), and for every
statement with hypotheses a witness that meets them. P-COS-NAN and P-COS-CR are hypotheses about the opaque
COS64 and SIN64, so the witnesses meet every other hypothesis. -/

namespace Sys2Proof.Tests

open Sys2Proof.Machine Sys2Proof.Claims

/-! ### Helpers -/

/-- The next state of an outcome. -/
def nx : Host.Outcome State Fault Refusal → Option State
  | .next t => some t
  | .fault _ => none
  | .refused _ => none

/-- A field of the next state of a command. -/
def after {α : Type} (i : Instr) (s : State) (field : State → α) : Option α := (nx (exec i s)).map field

/-- The staged values of the small configuration (95_test_vectors.md, section 2.1). -/
def smallRegs : ConfigRegs :=
  { rate := 0x4010000000000000#64, n := 2#32, markf := 0x4010000000000000#64, spacef := 0x4000000000000000#64 }

/-- The small configuration's filters: V-D1 and V-D2, with the coefficients the vectors list. -/
def smallMark : Filter :=
  { coeff := 0x4000000000000000#64, cos := 0x3FF0000000000000#64, sin := 0xBCB1A62633145C07#64
    k := 0x4000000000000000#64, kint := 2#64, q1 := 0#64, q2 := 0#64, draws := 0 }
def smallSpace : Filter :=
  { coeff := 0xC000000000000000#64, cos := 0xBFF0000000000000#64, sin := 0x3CA1A62633145C07#64
    k := 0x3FF0000000000000#64, kint := 1#64, q1 := 0#64, q2 := 0#64, draws := 0 }

/-- The state after the small configuration. -/
def small : State :=
  { State.reset with ctrl := .configured, staging := smallRegs, active := smallRegs, mark := smallMark, space := smallSpace }

/-- The small configuration after one `sample 1` (V-C10). -/
def smallOne : State :=
  { small with
    mark := { smallMark with q1 := 0x3FF0000000000000#64 }
    space := { smallSpace with q1 := 0x3FF0000000000000#64 }
    cnt := 1#32 }

/-- V-D11's staged values. -/
def overflowRegs : ConfigRegs :=
  { rate := 0x01A56E1FC2F8F359#64, n := 1#32, markf := 0x7E37E43C8800759C#64, spacef := 0x01A56E1FC2F8F359#64 }

/-- A state whose host has sent `h`. -/
def sent (s : State) (h : List HostInput) : State := { s with inbox := h }

/-- A filter with the given registers for the recursion. -/
def flt (coeff q1 q2 : F64) : Filter := { smallMark with coeff := coeff, q1 := q1, q2 := q2 }

/-! ### WellFormed: an ill-formed term for each check (30_encoding.md R39, R46) -/

theorem test_illFormed_nop : (Instr.nop 1#64).wellFormed = false := by decide
theorem test_illFormed_sample : (Instr.sample 1#48 5#16).wellFormed = false := by decide
theorem test_illFormed_endRun : (Instr.endRun 0x8000000000000000#64).wellFormed = false := by decide
theorem test_illFormed_configure : (Instr.configure 2#64).wellFormed = false := by decide
theorem test_illFormed_clearErr : (Instr.clearErr 4#64).wellFormed = false := by decide
theorem test_illFormed_wrN : (Instr.wrN 1#32 160#32).wellFormed = false := by decide
theorem test_illFormed_read : (Instr.read 0#6 1#64).wellFormed = false := by decide
theorem test_wellFormed : (Instr.sample 0#48 0xFFFF#16).wellFormed = true ∧ (Instr.wrN 0#32 0xFFFFFFFF#32).wellFormed = true ∧
    (Instr.wrRate 0xFFFFFFFFFFFFFFFF#64).wellFormed = true := by decide

/-! ### Decode: words written out from 30_encoding.md R44 and 95_test_vectors.md section 2.7 -/

theorem test_decode_nop : decode 0x000000000000000001#72 = .instr (.nop 1#64) := by decide
theorem test_decode_sample : decode 0x010000000000018000#72 = .instr (.sample 1#48 0x8000#16) := by decide
theorem test_decode_endRun : decode 0x020000000000000000#72 = .instr (.endRun 0#64) := by decide
theorem test_decode_configure : decode 0x030000000000000000#72 = .instr (.configure 0#64) := by decide
theorem test_decode_clearErr : decode 0x040000000000000000#72 = .instr (.clearErr 0#64) := by decide
theorem test_decode_wrRate : decode 0x1040E7700000000000#72 = .instr (.wrRate 0x40E7700000000000#64) := by decide
theorem test_decode_wrN : decode 0x110000000100000002#72 = .instr (.wrN 1#32 2#32) := by decide
theorem test_decode_wrMarkf : decode 0x127FF8000000000000#72 = .instr (.wrMarkf 0x7FF8000000000000#64) := by decide
theorem test_decode_wrSpacef : decode 0x13409FA40000000000#72 = .instr (.wrSpacef 0x409FA40000000000#64) := by decide
theorem test_decode_read : decode 0x4A0000000000000000#72 = .instr (.read 0x0A#6 0#64) := by decide
theorem test_decode_illegal : decode 0x050000000000000000#72 = .illegalOpcode ∧
    decode 0x0F0000000000000000#72 = .illegalOpcode ∧ decode 0x3F0000000000000000#72 = .illegalOpcode ∧
    decode 0xFF0000000000000000#72 = .illegalOpcode := by decide
/-- The table's numbering: OPC in bits 7:0, DATA above it; with all 72 bits, the spec's numbering. -/
theorem test_decodeTableWord : decodeTableWord 8 0x57 = some (.read 0x17#6 0#64) ∧
    decodeTableWord 24 0x800001 = some (.sample 0#48 0x8000#16) ∧
    decodeTableWord 72 0x010000000000008000 = some (.sample 0#48 0x8000#16) ∧
    decodeTableWord 8 0x05 = none ∧ decodeTableWord 72 0x000000000000000001 = none := by decide

/-! ### One step of each command (95_test_vectors.md, sections 2.3 to 2.7) -/

/-- V-K1. -/
theorem test_nop : after (.nop 0#64) small id = some small := by decide
/-- V-K2. -/
theorem test_nop_reserved : after (.nop 1#64) .reset (fun t => (t.err, t.ctrl)) = some (.reservedNonzero, .unconfigured) := by
  decide
/-- V-K4: the most negative sample. -/
theorem test_sample_first : after (.sample 0#48 0x8000#16) small (fun t => (t.mark.q1, t.space.q1, t.cnt, t.bitOut)) =
    some (0xC0E0000000000000#64, 0xC0E0000000000000#64, 1#32, []) := by decide +kernel
/-- V-S2 and V-S8: `1, -1` is a 0-bit; the filters are reset and the bit enters FBITS[0]. -/
theorem test_sample_blockEnd : after (.sample 0#48 0xFFFF#16) smallOne
    (fun t => (t.bitOut, t.mark.q1, t.space.q2, t.cnt, t.fullblk, t.fcnt)) =
    some ([false], 0#64, 0#64, 0#32, true, 1#4) := by decide +kernel
/-- V-K6. -/
theorem test_end_unconfigured : after (.endRun 0#64) .reset State.err = some .notConfigured := by decide
/-- V-C7: a partial block after a full one; `-1` alone gives MAG 1.0 on both filters. -/
theorem test_end_partial : after (.endRun 0#64) { smallOne with fullblk := true, fcnt := 1#4, fbits := 1#10 }
    (fun t => (t.bitOut, t.cnt, t.fullblk, t.fcnt, t.fbits)) = some ([true], 0#32, false, 0#4, 0#10) := by decide +kernel
/-- V-K8. -/
theorem test_configure_bad : after (.configure 0#64) .reset (fun t => (statusView t, t.active.rate)) =
    some (0x402#64, 0#64) := by decide +kernel
/-- V-K17 with V-D1's K and KINT: CONFIGURE in the middle of a run. -/
theorem test_configure : after (.configure 0#64) { smallOne with fcnt := 3#4, fbits := 5#10, fullblk := true }
    (fun t => (statusView t, t.cnt, t.mark.q1, t.mark.k, t.space.kint)) =
    some (1#64, 0#32, 0#64, 0x4000000000000000#64, 1#64) := by decide +kernel
/-- V-K18. -/
theorem test_clearErr : after (.clearErr 0#64) { State.reset with ctrl := .cfgError, err := .badConfig } statusView =
    some 2#64 := by decide
/-- V-K19. -/
theorem test_wrRate : after (.wrRate 0x7FF8000000000000#64) .reset (fun t => (t.staging.rate, t.err)) =
    some (0x7FF8000000000000#64, .noError) := by decide
/-- V-K20. -/
theorem test_wrN_reserved : after (.wrN 1#32 0#32) .reset (fun t => (statusView t, t.staging.n)) =
    some (0x200#64, 160#32) := by decide
/-- V-K21. -/
theorem test_wrN : after (.wrN 0#32 0xFFFFFFFF#32) .reset (fun t => t.staging.n) = some 0xFFFFFFFF#32 := by decide
/-- V-K22: only staging changes. -/
theorem test_wrMarkf : after (.wrMarkf 0x4000000000000000#64) small
    (fun t => (t.staging.markf, t.active.markf, t.mark.coeff)) =
    some (0x4000000000000000#64, 0x4010000000000000#64, 0x4000000000000000#64) := by decide
/-- 43_commands.md R85. -/
theorem test_wrSpacef : after (.wrSpacef 0x4000000000000000#64) .reset
    (fun t => (t.staging.spacef, t.staging.markf)) = some (0x4000000000000000#64, 0#64) := by decide
/-- V-K23. -/
theorem test_read_unassigned : after (.read 0x0B#6 0#64) .reset (fun t => (t.respOut, t.err)) =
    some ([0#64], .badSelect) := by decide
/-- V-F14: FRAME after the first nine bits of V-F6. -/
theorem test_read_frame : after (.read 0x0A#6 0#64) { small with fbits := 0b0110000010#10, fcnt := 9#4 } State.respOut =
    some [0x90182#64] := by decide
/-- V-K26 through the fetch: an illegal opcode is found before its DATA. -/
theorem test_step_illegal : (nx (step (State.reset.withFetchWord 72 0x05000000000000FFFF))).map State.err =
    some .illegalOpcode := by decide
/-- V-K3 through the fetch of a row's fixed bits. -/
theorem test_step_fetch : (nx (step (State.reset.withFetchWord 8 0x01))).map (fun t => (statusView t, t.inbox)) =
    some (0x300#64, []) := by decide

/-! ### The filters and binary64 (95_test_vectors.md, sections 2.3 and 2.4) -/

/-- V-S11: the tiny coefficient rounds 1.0 up. -/
theorem test_step_S11 : ((flt 0x3CA1A62633145C07#64 0x3FF0000000000000#64 0#64).step .mark 0x3FF0000000000000#64).q1 =
    0x3FF0000000000001#64 := by decide +kernel
theorem test_mag_S11 : (flt 0x3CA1A62633145C07#64 0x3FF0000000000001#64 0x3FF0000000000000#64).mag .mark =
    0x4000000000000001#64 := by decide +kernel
/-- V-S10: MAG 4294836225.0. -/
theorem test_mag_S10 : (flt 0xC000000000000000#64 0xC0F7FFE000000000#64 0x40DFFFC000000000#64).mag .space =
    0x41EFFFC000200000#64 := by decide +kernel
/-- V-S4: REAL and IMAG. -/
theorem test_real_S4 : (flt 0x4000000000000000#64 0x40DFFF8000000000#64 0x40DFFFC000000000#64).real .mark =
    0xBFF0000000000000#64 := by decide +kernel
theorem test_imag_S4 : (flt 0x4000000000000000#64 0x40DFFF8000000000#64 0x40DFFFC000000000#64).imag .mark =
    0xBDA1A602E6C7F5DE#64 := by decide +kernel
/-- V-K15: half the smallest subnormal rounds to even. -/
theorem test_fdiv_tie : fdiv 0#64 0x0000000000000002#64 0x4010000000000000#64 = 0#64 := by decide +kernel
/-- V-D4's K. -/
theorem test_fdiv_D4 : fdiv 0#64 (fmul 0#64 (u32ToF64 160#32) 0x40A1620000000000#64) 0x40E7700000000000#64 =
    0x401DAAAAAAAAAAAB#64 := by decide +kernel
/-- V-D11's overflow. -/
theorem test_fdiv_D11 : fdiv 0#64 0x7E37E43C8800759C#64 0x01A56E1FC2F8F359#64 = 0x7FF0000000000000#64 := by decide +kernel
/-- V-C3: the zeros compare equal. -/
theorem test_fge_zeros : fge 0x8000000000000000#64 0#64 = true := by decide +kernel

/-! ### The frame decoder (95_test_vectors.md, section 2.6) -/

/-- V-F11, V-F12's first frame, V-F10 and V-F13. -/
theorem test_frames :
    decodeBits [false, true, false, false, false, false, false, true, true, true, false, true, true, true] = [0x41#7] ∧
    (pushAll [false, false, false, false, true, false, false, true, true, true] .reset).charOut = [0x48#7] ∧
    (pushAll (List.replicate 10 false) .reset).charOut = [] ∧
    (pushAll [true, false, true, false, false, false, false, false, true, true, true] .reset).charOut = [] ∧
    frameView (pushAll [true, false, true, false, false, false, false, false, true, true, true] .reset) = 0x10001#64 := by
  decide

/-! ### The assembler (30_encoding.md R48, R49; 95_test_vectors.md section 3) -/

theorem test_assemble : Asm.assemble "sample -1 ; text\nread MAG.M\n\npreset answering".toList =
    some [0x01000000000000FFFF#72, 0x570000000000000000#72, 0x1240A1620000000000#72, 0x13409FA40000000000#72] := by
  decide +kernel
theorem test_assemble_real : Asm.assemble "wr_rate 48000.0\nwr_markf 5e-324".toList =
    some [0x1040E7700000000000#72, 0x120000000000000001#72] := by decide +kernel
theorem test_assemble_refuses : Asm.assemble "sample 32768".toList = none ∧ Asm.assemble "read 64".toList = none ∧
    Asm.assemble "wr_rate 1e0x10".toList = none := by decide +kernel

/-! ### Witnesses for the statements' hypotheses -/

/-- DecodeOfEncodeIsTheCommand, EncodeOfDecodeIsTheWord. -/
theorem test_witness_encoding : (Instr.read 0x3F#6 0#64).wellFormed = true ∧
    decode (encode (.read 0x3F#6 0#64)) = .instr (.read 0x3F#6 0#64) := by decide

/-- IllegalOpcodesAreRejected: both sides of every boundary, and a state that meets the second clause. -/
theorem test_witness_illegal :
    (∀ opc ∈ [0x05#8, 0x0F#8, 0x14#8, 0x3F#8, 0x80#8, 0xFF#8], legalOpcode opc = false ∧ decode (opc ++ 0#64) = .illegalOpcode) ∧
    (∀ opc ∈ [0x00#8, 0x04#8, 0x10#8, 0x13#8, 0x40#8, 0x7F#8], legalOpcode opc = true ∧ decode (opc ++ 0#64) ≠ .illegalOpcode) ∧
    (sent small [.command 0x050000000000000000#72, .reset]).inbox = .command 0x050000000000000000#72 :: [.reset] := by
  decide

/-- NonzeroReservedBitsAreRejected: the lowest reserved bit of each format. -/
theorem test_witness_reserved :
    (∀ w rest, (sent small (.command w :: rest)).inbox = .command w :: rest) ∧
    (legalOpcode 0x00#8 && legalOpcode 0x01#8 && legalOpcode 0x11#8 && legalOpcode 0x7F#8) = true ∧
    1#64 &&& reservedMask 0x00#8 ≠ 0#64 ∧ 0x10000#64 &&& reservedMask 0x01#8 ≠ 0#64 ∧
    0x100000000#64 &&& reservedMask 0x11#8 ≠ 0#64 ∧ 1#64 &&& reservedMask 0x7F#8 ≠ 0#64 :=
  ⟨fun _ _ => rfl, by decide, by decide, by decide, by decide, by decide⟩

/-- StepRunsTheDecodedCommand. -/
theorem test_witness_step : (sent small [.command 0x01000000000000FFFF#72]).inbox = .command 0x01000000000000FFFF#72 :: [] ∧
    decode 0x01000000000000FFFF#72 = .instr (.sample 0#48 0xFFFF#16) := by decide

/-- IdleHoldsTheState, ResetEventLeavesResetValues. -/
theorem test_witness_idle_reset : small.inbox = [] ∧ (sent smallOne [.reset]).inbox = .reset :: [] := by decide

/-- StepTakesOneInputInOrder, ChannelsOnlyGrow: an idle step, a reset event and a command have next states. -/
theorem test_witness_next : step small = .next small ∧
    (nx (step (sent small [.reset]))).isSome = true ∧
    (nx (step (sent small [.command 0x400000000000000000#72]))).isSome = true := ⟨rfl, by decide, by decide⟩

/-- ReadsAndResponsesPair: a READ, its last opcode, and inputs that are none. -/
theorem test_witness_reads : readOpcode 0x40#8 = true ∧ readOpcode 0x7F#8 = true ∧ readOpcode 0x3F#8 = false ∧
    readOpcode 0x80#8 = false ∧ (nx (step (sent small [.command 0x7F0000000000000000#72]))).isSome = true ∧
    (nx (step (sent small [.command 0x000000000000000000#72]))).isSome = true := by decide

/-- FirstFailedCheckDecides, ErrIsStickyUntilCleared: a word for each code, and words that fail no check. -/
theorem test_witness_checks : failedCheck .reset 0x05000000000000FFFF#72 = some .illegalOpcode ∧
    failedCheck .reset 0x010000000000010000#72 = some .reservedNonzero ∧
    failedCheck .reset 0x010000000000000005#72 = some .notConfigured ∧
    failedCheck .reset 0x030000000000000000#72 = some .badConfig ∧
    failedCheck .reset 0x4B0000000000000000#72 = some .badSelect ∧
    failedCheck .reset 0x040000000000000000#72 = none ∧ failedCheck small 0x030000000000000000#72 = none ∧
    (nx (step (sent .reset [.command 0x040000000000000000#72]))).isSome = true := by decide +kernel

/-- ControlStateIsMovedByConfigureAndReset: CONFIGURE both ways, another word, and both kinds of control state. -/
theorem test_witness_control : stagedValid small.staging = true ∧ stagedValid State.reset.staging = false ∧
    (nx (step (sent .reset [.command configureWord]))).isSome = true ∧
    (nx (step (sent small [.command 0x000000000000000000#72]))).isSome = true ∧
    State.reset.ctrl ≠ .configured ∧ small.ctrl = .configured := by decide +kernel

/-- EveryStepKeepsTheInvariants: a state in the middle of a block and of a frame. -/
theorem test_witness_invariants : ({ smallOne with fcnt := 2#4, fbits := 3#10 } : State).Inv where
  control := by decide
  block := by decide
  frameCount := by decide
  frameCells := by
    intro j hj
    by_cases h : j < 10
    · have : ∀ j : Fin 10, 2 ≤ j.val → (3#10).getLsbD j.val = false := by decide
      exact this ⟨j, h⟩ hj
    · exact BitVec.getLsbD_of_ge _ _ (by omega)
  accumulators := by decide
  beforeConfigure := by decide

/-- OnlyConfigureLoadsTheConfiguration, OnlyWriteCommandsChangeStaging: each alternative, at the boundaries. -/
theorem test_witness_configuration : 0x010000000000000001#72 ≠ configureWord ∧ stagedValid State.reset.staging = false ∧
    (nx (step (sent small [.command 0x100000000000000000#72]))).isSome = true ∧
    (nx (step (sent small [.command 0x130000000000000000#72]))).isSome = true ∧
    (nx (step (sent small [.command 0x040000000000000000#72]))).isSome = true ∧
    (nx (step (sent small [.command 0x140000000000000000#72]))).isSome = true :=
  ⟨by decide, by decide +kernel, by decide, by decide, by decide, by decide⟩

/-- DiagnosticsDoNotReachTheDecodePath: two states that differ in RESP_OUT, COS, SIN, K and KINT. -/
theorem test_witness_diagnostics : SameDecodePath small
    { small with respOut := [1#64], mark := { smallMark with cos := 0#64, sin := 0#64, k := 0#64, kint := 0#64 } } := by
  unfold SameDecodePath; decide

/-- ConfigureConstructsBothFilters, FailedConfigureConstructsNothing: valid values, and V-K10 to V-K14. -/
theorem test_witness_staged : stagedValid smallRegs = true ∧
    stagedValid { smallRegs with rate := 0x0000000000000001#64 } = true ∧
    stagedValid { smallRegs with rate := 0xC010000000000000#64 } = false ∧
    stagedValid { smallRegs with n := 0#32 } = false ∧
    stagedValid { smallRegs with markf := 0x7FF8000000000000#64 } = false ∧
    stagedValid { smallRegs with spacef := 0x7FF0000000000000#64 } = false ∧
    stagedValid { smallRegs with rate := 0x8000000000000000#64 } = false := by decide +kernel

/-- SmallConfigurationCoefficients, beside P-COS-CR. -/
theorem test_witness_smallConfiguration : small.staging =
    { rate := 0x4010000000000000#64, n := 2#32, markf := 0x4010000000000000#64, spacef := 0x4000000000000000#64 } := rfl

/-- InfiniteBinGivesNaNCoefficients, beside P-COS-NAN: V-D11, and V-D11 with mark and space exchanged. -/
theorem test_witness_infiniteBin : stagedValid overflowRegs = true ∧
    after (.configure 0#64) { State.reset with staging := overflowRegs } (fun t => t.mark.k) =
      some 0x7FF0000000000000#64 ∧
    stagedValid { overflowRegs with markf := overflowRegs.spacef, spacef := overflowRegs.markf } = true ∧
    after (.configure 0#64) { State.reset with staging :=
      { overflowRegs with markf := overflowRegs.spacef, spacef := overflowRegs.markf } } (fun t => t.space.k) =
      some 0x7FF0000000000000#64 := by decide +kernel

/-- V-D12's space filter: the argument of P-COS-CR's last entry. -/
theorem test_omega_D12 : omegaOf 0#64 0#64 0#64 0x000730D67819E8D2#64 1#32 = 0x0026972994076E32#64 := by decide +kernel

/-- SampleFeedsBothFilters, SampleEndingABlockPushesItsBit. -/
theorem test_witness_sample : small.ctrl = .configured ∧ small.cnt + 1#32 ≠ small.active.n ∧
    smallOne.ctrl = .configured ∧ smallOne.cnt + 1#32 = smallOne.active.n := by decide

/-- SampleAndEndRejections: reserved bits, and both states that are not CONFIGURED. -/
theorem test_witness_rejections : (1#48) ≠ 0#48 ∧ (1#64) ≠ 0#64 ∧ State.reset.ctrl ≠ .configured ∧
    ({ State.reset with ctrl := .cfgError } : State).ctrl ≠ .configured := by decide

/-- EndWithoutAPartialBit, EndDecidesAPartialBlock. -/
theorem test_witness_end : small.ctrl = .configured ∧ small.cnt = 0#32 ∧ smallOne.cnt ≠ 0#32 ∧ smallOne.fullblk = false ∧
    ({ smallOne with fullblk := true } : State).cnt ≠ 0#32 ∧ ({ smallOne with fullblk := true } : State).fullblk = true := by
  decide

/-- ErroneousReadAppendsZero: the ends of each unassigned range are unassigned, their neighbours are not. -/
theorem test_witness_selectors :
    (∀ sel ∈ [0x0B#6, 0x0F#6, 0x1A#6, 0x1F#6, 0x2A#6, 0x3F#6], readTarget sel = none) ∧
    (∀ sel ∈ [0x0A#6, 0x10#6, 0x19#6, 0x20#6, 0x29#6], readTarget sel ≠ none) := by decide

/-- StepFollowsTheRecursion, MagnitudeFollowsItsFormula: each clause's hypotheses. -/
theorem test_witness_filters : isFinite smallMark.coeff = true ∧ smallMark.q1 = 0#64 ∧ smallMark.q2 = 0#64 ∧
    isNaN (flt 0x7FF8000000000000#64 0#64 0#64).coeff = true ∧ isNaN (flt 0#64 0x7FF8000000000000#64 0#64).q1 = true ∧
    isNaN (flt 0#64 0#64 0xFFF0000000000001#64).q2 = true := by decide +kernel

/-- NaNCoefficientGivesBitZero, SilenceDecidesMark (both clauses), OneSampleBlocksDecideMark. -/
theorem test_witness_blocks :
    after (.sample 0#48 3#16) { smallOne with mark := flt 0x7FF8000000000000#64 0#64 0#64 } (fun t => t.bitOut.length) = some 1 ∧
    after (.sample 0#48 0#16) small (fun t => t.bitOut) = some [] ∧
    after (.sample 0#48 0#16) { small with cnt := 1#32 } (fun t => t.bitOut) = some [true] ∧
    after (.sample 0#48 3#16) { small with active := { smallRegs with n := 1#32 } } (fun t => (t.bitOut, t.cnt)) =
      some ([true], 0#32) ∧
    isFinite smallMark.coeff = true ∧ isFinite smallSpace.coeff = true := by decide +kernel

/-- EqualFiltersDecideMark. -/
theorem test_witness_equalFilters : isNaN (smallOne.mark.mag .mark) = false ∧
    ({ smallOne with space := smallOne.mark } : State).space.coeff = smallOne.mark.coeff := by decide +kernel

/-- ABlockOfSamplesDecidesOneBit: V-S1. -/
theorem test_witness_block : [1#16, 1#16] ≠ [] ∧ [1#16, 1#16].length = small.active.n.toNat ∧ small.cnt = 0#32 ∧
    (sent small (sampleInputs [1#16, 1#16] ++ [.reset])).inbox = sampleInputs [1#16, 1#16] ++ [.reset] := by decide

/-- TenthBitDecodesTheFrame (V-F1, V-F7), CharacterRoundTrip, FramingIsAFixedPartition. -/
theorem test_witness_frames : ({ small with fcnt := 9#4, fbits := 0x082#10 } : State).fbits.getLsbD 0 = false ∧
    ({ small with fcnt := 9#4, fbits := 0x001#10 } : State).fbits.getLsbD 0 = true ∧ small.fcnt = 0#4 ∧ small.fbits = 0#10 := by
  decide

/-- TruncationSaturates: each case, at its boundary. -/
theorem test_witness_truncation : isNaN 0x7FF8000000000000#64 = true ∧ fge 0#64 0x8000000000000000#64 = true ∧
    fge 0#64 0x0000000000000001#64 = false ∧ fge 0x43F0000000000000#64 0x43F0000000000000#64 = true ∧
    fge 0x43EFFFFFFFFFFFFF#64 0x43F0000000000000#64 = false ∧
    truncSatU64 0x43EFFFFFFFFFFFFF#64 = 0xFFFFFFFFFFFFF800#64 ∧ truncSatU64 0x40381CF5C28F5C29#64 = 24#64 := by
  decide +kernel

/-- ArithmeticRoundsToNearestEven: finite results of every operation, with a subnormal one. -/
theorem test_witness_rounding : isFinite (fadd 0#64 0x3FF0000000000000#64 0x3CA1A62633145C07#64) = true ∧
    isFinite (fsub 0#64 0x3FF0000000000000#64 0x3CA1A62633145C07#64) = true ∧
    isFinite (fmul 0#64 0x0000000000000001#64 0x3FE0000000000000#64) = true ∧ isZero 0x0000000000000001#64 = false ∧
    isFinite (fdiv 0#64 0x3FF0000000000000#64 0x4008000000000000#64) = true := by decide +kernel

/-- OverflowRoundsToInfinity: the largest finite value twice, and by the smallest. -/
theorem test_witness_overflow : isFinite 0x7FEFFFFFFFFFFFFF#64 = true ∧
    overflowUnits ≤ (exact 0x7FEFFFFFFFFFFFFF#64 + exact 0x7FEFFFFFFFFFFFFF#64).natAbs ∧
    overflowUnits * oneUnits ≤ units 0x7FEFFFFFFFFFFFFF#64 * units 0x7FEFFFFFFFFFFFFF#64 ∧
    overflowUnits * units 0x0000000000000001#64 ≤ units 0x7FEFFFFFFFFFFFFF#64 * oneUnits ∧
    isZero 0x0000000000000001#64 = false := by decide +kernel

/-- SpecialValuesOfArithmetic: a value of each kind. -/
theorem test_witness_special : isNaN 0x7FF0000000000001#64 = true ∧ isInf 0x7FF0000000000000#64 = true ∧
    isInf 0xFFF0000000000000#64 = true ∧ isZero 0x8000000000000000#64 = true ∧ isFinite 0x3FF0000000000000#64 = true ∧
    isZero 0x3FF0000000000000#64 = false ∧ exact 0x3FF0000000000000#64 + exact 0xBFF0000000000000#64 = 0 ∧
    signBit 0x7FF0000000000000#64 ≠ signBit 0xFFF0000000000000#64 := by decide +kernel

/-- SignsOfFiniteResults: zeros of both signs, a nonzero and a zero sum and difference, and V-S5's filter. -/
theorem test_witness_signs : isFinite 0x8000000000000000#64 = true ∧ isZero 0x8000000000000000#64 = true ∧
    isFinite 0xBFF0000000000000#64 = true ∧ isZero 0xBFF0000000000000#64 = false ∧
    exact 0x3FF0000000000000#64 + exact 0x3FF0000000000000#64 ≠ 0 ∧
    exact 0x3FF0000000000000#64 - exact 0xBFF0000000000000#64 ≠ 0 ∧
    exact 0x8000000000000000#64 - exact 0x0000000000000000#64 = 0 ∧
    smallMark.q2 = 0#64 ∧ isFinite smallMark.sin = true ∧ signBit smallMark.sin = true := by decide +kernel

/-- AssembledWordsAreCommands, AssemblerExpansions: the ends of the ranges. -/
theorem test_witness_assembler : (Asm.assemble "cfg 4.0, 2, 4.0, 2.0".toList).isSome = true ∧
    Asm.expand (.sample (-32768)) = some [.sample 0#48 0x8000#16] ∧ Asm.expand (.sample 32767) = some [.sample 0#48 0x7FFF#16] ∧
    Asm.expand (.sample 32768) = none ∧ (Asm.expand (.wrN 4294967295)).isSome = true ∧
    (Asm.expand (.read 63)).isSome = true ∧ Asm.expand (.cfg 0#64 4294967296 0#64 0#64) = none ∧
    Asm.expand (.samples [-32768, 32767]) = some [.sample 0#48 0x8000#16, .sample 0#48 0x7FFF#16] ∧
    Asm.expand (.samples [1, 32768]) = none := by decide +kernel

end Sys2Proof.Tests
end

section
/-! Proofs of the family 00_scope.md, R8 to R10: the comparison and the conversions of binary64, both read through
`exact`, the value of an encoding in units of 2^-1074. -/

namespace Sys2Proof.Machine

/-! ### Order: the encodings order as the values they stand for -/

theorem unitsOf_strictMono : StrictMono unitsOf := fun _ _ h => unitsOf_lt h

theorem exact_of_pos {x : F64} (h : signBit x = false) : exact x = unitsOf (magnitude x) := by
  simp [exact, units, h]

theorem exact_of_neg {x : F64} (h : signBit x = true) : exact x = -(unitsOf (magnitude x) : Int) := by
  simp [exact, units, h]

theorem orderKey_of_pos {x : F64} (h : signBit x = false) : orderKey x = magnitude x := by
  simp [orderKey, h]

theorem orderKey_of_neg {x : F64} (h : signBit x = true) : orderKey x = -(magnitude x : Int) := by
  simp [orderKey, h]

/-- The order key is not the value, but it orders as the value does: `unitsOf` is strictly increasing and keeps
zero, so both signs' halves keep their order and meet at the two zeros. -/
theorem orderKey_le_iff (a b : F64) : orderKey b ≤ orderKey a ↔ exact b ≤ exact a := by
  have hab := unitsOf_strictMono.le_iff_le (a := magnitude a) (b := magnitude b)
  have hba := unitsOf_strictMono.le_iff_le (a := magnitude b) (b := magnitude a)
  have ha := unitsOf_strictMono.le_iff_le (a := magnitude a) (b := 0)
  have hb := unitsOf_strictMono.le_iff_le (a := magnitude b) (b := 0)
  rw [unitsOf_zero] at ha hb
  cases hsa : signBit a <;> cases hsb : signBit b
  · rw [orderKey_of_pos hsa, orderKey_of_pos hsb, exact_of_pos hsa, exact_of_pos hsb]; omega
  · rw [orderKey_of_pos hsa, orderKey_of_neg hsb, exact_of_pos hsa, exact_of_neg hsb]; omega
  · rw [orderKey_of_neg hsa, orderKey_of_pos hsb, exact_of_neg hsa, exact_of_pos hsb]; omega
  · rw [orderKey_of_neg hsa, orderKey_of_neg hsb, exact_of_neg hsa, exact_of_neg hsb]; omega

theorem fge_iff (a b : F64) :
    fge a b = true ↔ isNaN a = false ∧ isNaN b = false ∧ orderKey b ≤ orderKey a := by
  simp [fge, and_assoc]

/-- Of values that are no NaN, `fge` is the order of `exact`, which puts the infinities past all finite values. -/
theorem fge_eq_decide_exact_le {a b : F64} (ha : isNaN a = false) (hb : isNaN b = false) :
    fge a b = decide (exact b ≤ exact a) := by
  simp [fge, ha, hb, orderKey_le_iff]

theorem isNaN_eq_false_iff (x : F64) : isNaN x = false ↔ magnitude x ≤ infMagnitude := by simp [isNaN]

theorem orderKey_posInf : orderKey 0x7FF0000000000000#64 = infMagnitude := by decide

theorem orderKey_negInf : orderKey 0xFFF0000000000000#64 = -(infMagnitude : Int) := by decide

/-- No value that is no NaN lies outside the two infinities. -/
theorem orderKey_bounds {x : F64} (h : isNaN x = false) :
    -(infMagnitude : Int) ≤ orderKey x ∧ orderKey x ≤ infMagnitude := by
  rw [isNaN_eq_false_iff] at h
  unfold orderKey
  split <;> omega

/-- A value that is no NaN is +inf, -inf or finite. -/
theorem posInf_or_negInf_or_finite {x : F64} (h : isNaN x = false) :
    x = 0x7FF0000000000000#64 ∨ x = 0xFFF0000000000000#64 ∨ isFinite x = true := by
  cases hi : isInf x with
  | false => right; right; rw [isFinite_eq, h, hi]; rfl
  | true =>
    rw [isInf_iff] at hi
    cases hs : signBit x with
    | false => exact .inl (eq_of_sign_magnitude hs hi)
    | true => exact .inr (.inl (eq_of_sign_magnitude hs hi))

/-- A finite value lies strictly between the infinities. -/
theorem orderKey_strict_bounds {x : F64} (h : isFinite x = true) :
    -(infMagnitude : Int) < orderKey x ∧ orderKey x < infMagnitude := by
  rw [isFinite_iff] at h
  unfold orderKey
  split <;> omega

/-- Settles O51: the infinities are the ends of the order of `orderKey`, and on finite values that order is the
order of the exact values. -/
theorem fgeIsTheRealComparison : Obligations.FgeIsTheRealComparison := by
  intro a b
  rw [fge_iff]
  refine and_congr_right fun ha => and_congr_right fun hb => ⟨fun hle => ?_, ?_⟩
  · have hpos : 0 < (infMagnitude : Int) := by decide
    rcases posInf_or_negInf_or_finite ha with rfl | rfl | hfa
    · exact .inl rfl
    · rcases posInf_or_negInf_or_finite hb with rfl | rfl | hfb
      · rw [orderKey_posInf, orderKey_negInf] at hle; omega
      · exact .inr (.inl rfl)
      · have := orderKey_strict_bounds hfb
        rw [orderKey_negInf] at hle; omega
    · rcases posInf_or_negInf_or_finite hb with rfl | rfl | hfb
      · have := orderKey_strict_bounds hfa
        rw [orderKey_posInf] at hle; omega
      · exact .inr (.inl rfl)
      · exact .inr (.inr ⟨hfa, hfb, (orderKey_le_iff a b).1 hle⟩)
  · rintro (rfl | rfl | ⟨-, -, hle⟩)
    · rw [orderKey_posInf]; exact (orderKey_bounds hb).2
    · rw [orderKey_negInf]; exact (orderKey_bounds ha).1
    · exact (orderKey_le_iff a b).2 hle

/-! ### Conversions from integers: a representable value is rounded to itself -/

/-- Rounding keeps a value that a magnitude stands for, up to infinity: that magnitude's value lies between the
values of the quotient's magnitude and of the next one, so it is the quotient's. -/
theorem roundMagnitude_unitsOf (p : Nat) {den : Nat} (hd : 0 < den) :
    roundMagnitude (unitsOf p * den) den = min p infMagnitude := by
  obtain ⟨k, q, m, hr, hlo, hhi, hq, hk, hm, -⟩ := roundMagnitude_spec (unitsOf p * den) den hd
  have hval : unitsOf (k * 2 ^ 52 + q) = q * 2 ^ k := unitsOf_scaled k q (by omega) hk
  have hnext : unitsOf (k * 2 ^ 52 + (q + 1)) = (q + 1) * 2 ^ k := unitsOf_scaled k (q + 1) (by omega) (by omega)
  have hle : k * 2 ^ 52 + q ≤ p :=
    unitsOf_strictMono.le_iff_le.1 (hval ▸ Nat.le_of_mul_le_mul_right hlo hd)
  have hlt : p < k * 2 ^ 52 + (q + 1) :=
    unitsOf_strictMono.lt_iff_lt.1 (hnext ▸ Nat.lt_of_mul_lt_mul_right hhi)
  obtain rfl : p = k * 2 ^ 52 + q := by omega
  rcases hm with ⟨rfl, -⟩ | ⟨-, hup⟩
  · exact hr
  · have hstep : 0 < 2 ^ k * den := Nat.mul_pos (Nat.two_pow_pos k) hd
    rw [hval] at hup
    exact absurd hup (by nlinarith)

/-- Every integer below 2^53 is the value of a finite magnitude: its bits, shifted up to the leading place. -/
theorem exists_unitsOf_eq_mul_oneUnits {n : Nat} (hn : n < 2 ^ 53) :
    ∃ p, p < infMagnitude ∧ unitsOf p = n * oneUnits := by
  rcases Nat.eq_zero_or_pos n with rfl | hpos
  · exact ⟨0, by decide, by rw [unitsOf_zero, Nat.zero_mul]⟩
  · have he : n.log2 < 53 := (Nat.log2_lt (by omega)).2 hn
    have hlow : 2 ^ n.log2 ≤ n := Nat.log2_self_le (by omega)
    have hhigh : n < 2 ^ (n.log2 + 1) := Nat.lt_log2_self
    generalize n.log2 = e at he hlow hhigh
    have hm : 2 ^ 52 ≤ n * 2 ^ (52 - e) := calc
      2 ^ 52 = 2 ^ e * 2 ^ (52 - e) := by rw [← pow_add]; congr 1; omega
      _ ≤ n * 2 ^ (52 - e) := Nat.mul_le_mul_right _ hlow
    have hm' : n * 2 ^ (52 - e) < 2 ^ 53 := calc
      n * 2 ^ (52 - e) < 2 ^ (e + 1) * 2 ^ (52 - e) := Nat.mul_lt_mul_of_pos_right hhigh (Nat.two_pow_pos _)
      _ = 2 ^ 53 := by rw [← pow_add]; congr 1; omega
    refine ⟨(1022 + e) * 2 ^ 52 + n * 2 ^ (52 - e), ?_, ?_⟩
    · unfold infMagnitude; omega
    · rw [unitsOf_scaled _ _ hm'.le (.inr hm), Nat.mul_assoc, ← pow_add, oneUnits]
      congr 2; omega

/-- An integer of at most 53 bits converts exactly. -/
theorem intToF64_exact {z : Int} (hz : z.natAbs < 2 ^ 53) :
    isFinite (intToF64 z) = true ∧ exact (intToF64 z) = z * oneUnits := by
  obtain ⟨p, hp, hval⟩ := exists_unitsOf_eq_mul_oneUnits hz
  have hround : roundMagnitude (z.natAbs * oneUnits) 1 = p := by
    rw [← hval, ← Nat.mul_one (unitsOf p), roundMagnitude_unitsOf p Nat.one_pos, Nat.min_eq_left hp.le]
  rw [intToF64, hround, isFinite_pack _ hp.le, exact_pack _ hp.le, hval]
  refine ⟨decide_eq_true hp, ?_⟩
  rcases Int.lt_or_le z 0 with h | h
  · rw [if_pos (decide_eq_true h), Nat.cast_mul, Int.ofNat_natAbs_of_nonpos h.le, Int.neg_mul, Int.neg_neg]
  · rw [if_neg (by simpa using h), Nat.cast_mul, Int.natAbs_of_nonneg h]

theorem intToF64_zero : intToF64 0 = 0x0000000000000000#64 := by
  have hround : roundMagnitude (Int.natAbs 0 * oneUnits) 1 = 0 := by
    rw [Int.natAbs_zero, Nat.zero_mul, roundMagnitude_zero Nat.one_pos]
  rw [intToF64, hround]
  rfl

/-- Settles O52: the integers of both types have fewer than 53 bits. -/
theorem integerConversionsAreExact : Obligations.IntegerConversionsAreExact := by
  refine ⟨fun v => intToF64_exact ?_, fun n => intToF64_exact ?_, intToF64_zero, intToF64_zero⟩
  · have hlo := BitVec.le_toInt v
    have hhi := BitVec.toInt_lt (x := v)
    omega
  · have := n.isLt
    omega

/-! ### Truncation -/

/-- 2^64, the first value past the u64 range. -/
theorem exact_two_pow_64 : exact 0x43F0000000000000#64 = 2 ^ 64 * oneUnits := by
  have hmag : magnitude 0x43F0000000000000#64 = 1086 * 2 ^ 52 + 2 ^ 52 := by decide
  have hval : 2 ^ 52 * 2 ^ 1086 = 2 ^ 64 * oneUnits := by rw [oneUnits, ← pow_add, ← pow_add]
  rw [exact_of_pos (by decide), hmag, unitsOf_scaled 1086 (2 ^ 52) (by decide) (.inr le_rfl), hval]
  push_cast
  rfl

theorem exact_nonpos_of_neg {x : F64} (h : signBit x = true) : exact x ≤ 0 := by
  rw [exact_of_neg h]; omega

theorem two_pow_64_le_toNat_div {z : Int} (h : 2 ^ 64 * (oneUnits : Int) ≤ z) : 2 ^ 64 ≤ z.toNat / oneUnits := by
  rw [Nat.le_div_iff_mul_le oneUnits_pos]
  zify
  omega

theorem two_pow_64_le_of_isInf {x : F64} (h : isInf x = true) (hs : signBit x = false) :
    2 ^ 64 * (oneUnits : Int) ≤ exact x := by
  rw [isInf_iff] at h
  rw [← exact_two_pow_64, ← orderKey_le_iff, orderKey_of_pos hs, h]
  decide

/-- `trunc_sat_u64` of a value that is no NaN is the whole part of that value, cut off at both ends of the u64
range. -/
theorem toNat_truncSatU64 {x : F64} (h : isNaN x = false) :
    (truncSatU64 x).toNat = min ((exact x).toNat / oneUnits) (2 ^ 64 - 1) := by
  rw [truncSatU64, if_neg (by simp [h])]
  cases hs : signBit x with
  | true =>
    rw [if_pos rfl, Int.toNat_of_nonpos (exact_nonpos_of_neg hs), Nat.zero_div]
    rfl
  | false =>
    rw [if_neg (by simp)]
    split
    next hi =>
      have hbig := two_pow_64_le_toNat_div (two_pow_64_le_of_isInf hi hs)
      rw [Nat.min_eq_right (by omega)]
      rfl
    next =>
      rw [exact_of_pos hs, Int.toNat_natCast, units, BitVec.toNat_ofNat, Nat.mod_eq_of_lt (by omega)]

/-- Settles O53: `fge` with 0 and with 2^64 is the order of the exact values, which decides the two cuts of
`toNat_truncSatU64`; between them the division by one unit rounds toward zero. -/
theorem truncationSaturates : Obligations.TruncationSaturates := by
  intro x
  have hzero : exact 0#64 = 0 := by decide
  have hunit := oneUnits_pos
  refine ⟨fun h => by simp [truncSatU64, h], fun h hge => ?_, fun h hge => ?_, fun h hpos hlt => ?_⟩
  · rw [fge_eq_decide_exact_le (by decide) h, decide_eq_true_eq, hzero] at hge
    apply BitVec.eq_of_toNat_eq
    rw [toNat_truncSatU64 h, Int.toNat_of_nonpos hge, Nat.zero_div]
    rfl
  · rw [fge_eq_decide_exact_le h (by decide), decide_eq_true_eq, exact_two_pow_64] at hge
    have hbig := two_pow_64_le_toNat_div hge
    apply BitVec.eq_of_toNat_eq
    rw [toNat_truncSatU64 h, Nat.min_eq_right (by omega)]
    rfl
  · rw [fge_eq_decide_exact_le (by decide) h, decide_eq_false_iff_not, hzero, not_le] at hpos
    rw [fge_eq_decide_exact_le h (by decide), decide_eq_false_iff_not, exact_two_pow_64, not_le] at hlt
    obtain ⟨u, hu⟩ := Int.eq_ofNat_of_zero_le hpos.le
    rw [hu] at hlt
    have hsmall : u / oneUnits < 2 ^ 64 := by
      rw [Nat.div_lt_iff_lt_mul hunit]
      exact_mod_cast hlt
    rw [toNat_truncSatU64 h, hu, Int.toNat_natCast, Nat.min_eq_left (by omega)]
    exact ⟨mod_cast Nat.div_mul_le_self u oneUnits, mod_cast Nat.lt_mul_of_div_lt (Nat.lt_succ_self _) hunit⟩

end Sys2Proof.Machine
end

section
/-! Proofs of the family 10_state.md: what moves STATE (R14), the fields of STATUS and FRAME (R24, R25), and the
reset event (R28). -/

namespace Sys2Proof.Machine

open Sys2Proof.Claims

/-! ### The fields of the views -/

@[simp] theorem statusView_state (s : State) : (statusView s).extractLsb' 0 2 = s.ctrl.code :=
  extractLsb'_low _ s.ctrl.code

/-- Settles O36: the fields below the one that is read are dropped one by one. -/
theorem statusLayout : Obligations.StatusLayout := by
  refine ⟨fun s => ⟨statusView_state s, ?fullblk, ?reserved3, ?fcnt, ?err, ?reserved⟩, by decide⟩
  case fullblk => simp only [statusView, BitVec.getLsbD_append]; simp
  case reserved3 => simp only [statusView, BitVec.getLsbD_append]; simp
  case fcnt =>
    simp (disch := decide) only [statusView, BitVec.extractLsb'_append_eq_of_le]
    exact extractLsb'_low _ s.fcnt
  case err =>
    simp (disch := decide) only [statusView, BitVec.extractLsb'_append_eq_of_le]
    exact extractLsb'_low _ s.err.code
  case reserved =>
    simp (disch := decide) only [statusView, BitVec.extractLsb'_append_eq_of_le]
    rfl

/-- Settles O37: FRAME is read through its four parts, of which the second and the fourth are zeros. -/
theorem frameLayout : Obligations.FrameLayout := by
  refine ⟨fun s => ⟨fun j hj => ?cells, ?fcnt, fun j hj hgap => ?zeros⟩, by decide⟩
  case cells => simp only [frameView, BitVec.getLsbD_append, if_pos hj]
  case fcnt =>
    simp (disch := decide) only [frameView, BitVec.extractLsb'_append_eq_of_le]
    exact extractLsb'_low _ s.fcnt
  case zeros =>
    simp only [frameView, BitVec.getLsbD_append]
    rw [if_neg (by omega)]
    rcases hgap with hlow | hhigh
    · rw [if_pos (by omega), BitVec.getLsbD_zero]
    · rw [if_neg (by omega), if_neg (by omega), BitVec.getLsbD_zero]

/-! ### The reset event -/

theorem sameRegisters_zero (d d' : Nat) : SameRegisters (Filter.zero d) (Filter.zero d') := by
  simp [SameRegisters, SameCoefficients]

/-- Settles O8: the reset event is `applyReset`, whose fields are the reset values, the channels and the later
inputs. -/
theorem resetEventLeavesResetValues : Obligations.ResetEventLeavesResetValues := by
  refine ⟨fun s rest h => ⟨_, step_reset h, ?_⟩, fun d => by simp, rfl, rfl, rfl, step_reset rfl⟩
  simp [State.taken, ConfigRegs.stagingReset, ConfigRegs.zero, sameRegisters_zero]

/-! ### CONFIGURE: its one word, and its validation in the spec's words -/

/-- Only CONFIGURE's opcode decodes to CONFIGURE, so its word is that opcode with its DATA. -/
theorem decode_eq_configure_iff (w : CommandWord) (data : BitVec 64) :
    decode w = .instr (.configure data) ↔ w = mkWord 0x03#8 data := by
  constructor
  · intro h
    unfold decode at h
    simp only at h
    split_ifs at h with h0 h1 h2 hopc <;> cases h
    rw [← hopc, mkWord_fields]
  · rintro rfl
    simp [decode]

theorem decode_eq_configure_zero_iff (w : CommandWord) :
    decode w = .instr (.configure 0#64) ↔ w = configureWord :=
  decode_eq_configure_iff w 0#64

theorem fge_zero_eq {x : F64} (h : isNaN x = false) : fge 0#64 x = (signBit x || isZero x) := by
  have hzero : orderKey 0#64 = 0 := by decide
  rw [Bool.eq_iff_iff, fge_iff, hzero, Bool.or_eq_true, isZero_iff]
  cases hs : signBit x with
  | true => rw [orderKey_of_neg hs]; simp [h, show isNaN 0#64 = false by decide]
  | false => rw [orderKey_of_pos hs]; simp [h, show isNaN 0#64 = false by decide]

theorem eq_posInf_iff (x : F64) : x = 0x7FF0000000000000#64 ↔ isInf x = true ∧ signBit x = false := by
  rw [isInf_iff]
  exact ⟨by rintro rfl; decide, fun ⟨hm, hs⟩ => eq_of_sign_magnitude hs hm⟩

/-- The two readings of `valid(x)`, by comparison with +0.0 and +inf and by the kinds of values, differ on no
value: -inf is not above +0.0. -/
theorem positiveReal_eq_validReal (x : F64) : positiveReal x = validReal x := by
  cases hn : isNaN x with
  | true => simp [positiveReal, validReal, hn]
  | false =>
    have hinf : (x != 0x7FF0000000000000#64) = !(isInf x && !signBit x) := by
      rw [Bool.eq_iff_iff]; simp [eq_posInf_iff, imp_iff_not_or]
    rw [positiveReal, validReal, hn, fge_zero_eq hn, hinf]
    cases isInf x <;> cases signBit x <;> simp

theorem stagedValid_eq_validConfig (c : ConfigRegs) : stagedValid c = validConfig c := by
  have hn : decide (1 ≤ c.n.toNat) = (c.n != 0#32) := by
    rw [Bool.eq_iff_iff]; simp [Nat.one_le_iff_ne_zero, ← BitVec.toNat_inj]
  simp only [stagedValid, validConfig, positiveReal_eq_validReal, hn]

/-! ### What keeps STATE and ERR -/

@[simp] theorem blockEnd_ctrl (s : State) : (blockEnd s).ctrl = s.ctrl := by simp [blockEnd_eq, closedBlock]
@[simp] theorem blockEnd_err (s : State) : (blockEnd s).err = s.err := by simp [blockEnd_eq, closedBlock]

@[simp] theorem flushBlock_ctrl (s : State) : (flushBlock s).ctrl = s.ctrl := by
  rcases flushBlock_cases s with ⟨-, h⟩ | ⟨-, -, h⟩ | ⟨-, -, h⟩ <;> simp [h]
@[simp] theorem flushBlock_err (s : State) : (flushBlock s).err = s.err := by
  rcases flushBlock_cases s with ⟨-, h⟩ | ⟨-, -, h⟩ | ⟨-, -, h⟩ <;> simp [h]

@[simp] theorem acceptSample_err (smp : BitVec 16) (s : State) : (acceptSample smp s).err = s.err := by
  rcases acceptSample_cases smp s with ⟨-, h⟩ | ⟨-, h⟩ <;> simp [h]

@[simp] theorem spendRead_ctrl (s : State) (r : ReadTarget) : (spendRead s r).ctrl = s.ctrl := by
  obtain ⟨_, _, h⟩ := spendRead_eq s r; simp [h]

/-! ### What moves STATE -/

/-- CONFIGURE with DATA zero moves STATE by its validation; every other command, and CONFIGURE with reserved
bits set, keeps it. -/
theorem Effect.ctrl_eq {s t : State} {i : Instr} (h : Effect s i t) :
    t.ctrl = if i = .configure 0#64 then (if validConfig s.staging then .configured else .cfgError)
      else s.ctrl := by
  cases h with
  | reserved i _ hbad =>
    have hne : i ≠ .configure 0#64 := by rintro rfl; exact absurd hbad (by decide)
    simp [hne]
  | configureRefused hv => simp [hv]
  | configure hv => simp [hv]
  | _ => simp

/-- `Effect.ctrl_eq` for the host's words: CONFIGURE with DATA zero is one word, and an illegal word is no command. -/
theorem step_command_ctrl {s t : State} {w : CommandWord} {rest : List HostInput}
    (hin : s.inbox = .command w :: rest) (h : step s = .next t) :
    t.ctrl = if w = configureWord then (if stagedValid s.staging then .configured else .cfgError) else s.ctrl := by
  rw [stagedValid_eq_validConfig]
  have hword := decode_eq_configure_zero_iff w
  cases hd : decode w with
  | instr i =>
    rw [step_instr hin hd] at h
    rw [hd, Decoded.instr.injEq] at hword
    exact (effect_of_exec h).ctrl_eq.trans (if_congr hword rfl rfl)
  | illegalOpcode =>
    rw [step_illegal hin hd] at h
    cases h
    rw [if_neg (by simp [← hword, hd])]
    rfl

/-! ### What STATE admits -/

theorem exec_sample_configured {s : State} (h : s.ctrl = .configured) (smp : BitVec 16) :
    exec (.sample 0#48 smp) s = .next (acceptSample smp s) := by
  simp [exec, execSample, h]

theorem exec_sample_refused {s : State} (h : s.ctrl ≠ .configured) (smp : BitVec 16) :
    exec (.sample 0#48 smp) s = .next { s with err := .notConfigured } := by
  simp [exec, execSample, h, reject]

theorem exec_endRun_configured {s : State} (h : s.ctrl = .configured) :
    exec (.endRun 0#64) s = .next (frameDiscard (flushBlock s)) := by
  simp [exec, execEndRun, h]

theorem exec_endRun_refused {s : State} (h : s.ctrl ≠ .configured) :
    exec (.endRun 0#64) s = .next { s with err := .notConfigured } := by
  simp [exec, execEndRun, h, reject]

/-- Settles O15: what moves STATE is read off the host's next input, and what STATE admits off the checks of SAMPLE
and END, whose accepted effects keep ERR. -/
theorem controlStateIsMovedByConfigureAndReset : Obligations.ControlStateIsMovedByConfigureAndReset := by
  refine ⟨⟨rfl, rfl, rfl⟩, rfl, statusView_state,
    fun s t h => ⟨fun hin => ?idle, fun rest hin => ?reset, fun w rest hin => step_command_ctrl hin h⟩,
    fun s smp => ⟨fun hc => ⟨exec_sample_refused hc smp, exec_endRun_refused hc⟩,
      fun hc => ⟨⟨_, exec_sample_configured hc smp, acceptSample_err smp s⟩,
        ⟨_, exec_endRun_configured hc, by rw [frameDiscard_err, flushBlock_err]⟩⟩⟩⟩
  case idle => rw [step_idle hin] at h; cases h; rfl
  case reset => rw [step_reset hin] at h; cases h; rfl

end Sys2Proof.Machine
end

section
/-! Proofs of the family 30_encoding.md: the opcode map (R44, R45) and the reserved bits (R46). The obligations speak
of a word's fields; each is tied to the decoder and to the command's constructor once. -/

namespace Sys2Proof.Machine

open Sys2Proof.Claims Sys2Proof.Laws

/-! ### The opcode map: which words are commands -/

/-- READ's opcodes are the ones whose two high bits are 01 (R43). -/
theorem read_prefix_iff_readOpcode (opc : BitVec 8) : opc.extractLsb' 6 2 = 0b01#2 ↔ readOpcode opc = true := by
  rw [← BitVec.toNat_inj, BitVec.extractLsb'_toNat, Nat.shiftRight_eq_div_pow]
  simp only [readOpcode, Bool.and_eq_true, decide_eq_true_eq]
  bv_omega

/-- The ranges of R44's map, opcode by opcode in the decoder's order. -/
theorem legalOpcode_iff_mapped (opc : BitVec 8) :
    legalOpcode opc = true ↔ opc = 0x00#8 ∨ opc = 0x01#8 ∨ opc = 0x02#8 ∨ opc = 0x03#8 ∨ opc = 0x04#8 ∨
      opc = 0x10#8 ∨ opc = 0x11#8 ∨ opc = 0x12#8 ∨ opc = 0x13#8 ∨ opc.extractLsb' 6 2 = 0b01#2 := by
  rw [read_prefix_iff_readOpcode]
  simp only [legalOpcode, readOpcode, Bool.or_eq_true, Bool.and_eq_true, decide_eq_true_eq]
  bv_omega

/-- The opcodes the decoder refuses are those outside R44's map. -/
theorem decode_eq_illegalOpcode_iff (w : CommandWord) :
    decode w = .illegalOpcode ↔ legalOpcode (opcField w) = false := by
  rw [← Bool.not_eq_true, legalOpcode_iff_mapped]
  unfold decode
  simp only
  split_ifs <;> simp [*]

/-- R45's ranges are the complement of R44's map. -/
theorem legalOpcode_eq_false_iff (opc : BitVec 8) :
    legalOpcode opc = false ↔ (0x05 ≤ opc.toNat ∧ opc.toNat ≤ 0x0F) ∨
      (0x14 ≤ opc.toNat ∧ opc.toNat ≤ 0x3F) ∨ 0x80 ≤ opc.toNat := by
  simp only [legalOpcode, Bool.or_eq_false_iff, Bool.and_eq_false_iff, decide_eq_false_iff_not]
  omega

/-- Settles O3: the decoder refuses the complement of R44's map, and a step rejects what the decoder refuses. -/
theorem illegalOpcodesAreRejected : Obligations.IllegalOpcodesAreRejected := fun w =>
  ⟨(decode_eq_illegalOpcode_iff w).trans (legalOpcode_eq_false_iff (opcField w)),
    fun hd _ _ hin => step_illegal hin hd⟩

/-! ### The fields of a command's word -/

/-- READ's prefix and selector together are its opcode `0x40 + SEL`. -/
theorem read_prefix_append_eq_opcodeOf (sel : BitVec 6) (data : BitVec 64) :
    (0b01#2 ++ sel : BitVec 8) = opcodeOf (.read sel data) :=
  (opcField_mkWord _ data).symm.trans (WordFields.read sel data).1

/-- A word that decodes to a command has that command's opcode and DATA. -/
theorem fields_of_decode {w : CommandWord} {i : Instr} (h : decode w = .instr i) :
    opcField w = opcodeOf i ∧ dataField w = dataOf i := by
  unfold decode at h
  simp only at h
  split_ifs at h with hopc hopc hopc hopc hopc hopc hopc hopc hopc hopc <;> cases h
  · exact ⟨hopc, rfl⟩
  · exact ⟨hopc, (extractLsb'_append_parts (a := 48) (b := 16) (dataField w)).symm⟩
  · exact ⟨hopc, rfl⟩
  · exact ⟨hopc, rfl⟩
  · exact ⟨hopc, rfl⟩
  · exact ⟨hopc, rfl⟩
  · exact ⟨hopc, (extractLsb'_append_parts (a := 32) (b := 32) (dataField w)).symm⟩
  · exact ⟨hopc, rfl⟩
  · exact ⟨hopc, rfl⟩
  · have hparts := extractLsb'_append_parts (a := 2) (b := 6) (opcField w)
    rw [hopc, read_prefix_append_eq_opcodeOf _ (dataField w)] at hparts
    exact ⟨hparts.symm, rfl⟩

/-! ### The reserved bits -/

/-- A mask of the high bits of two values put together keeps none exactly when the high value is zero. -/
theorem append_and_highMask_eq_zero_iff {a b : Nat} (x : BitVec a) (y : BitVec b) :
    (x ++ y) &&& (BitVec.allOnes a ++ 0#b) = 0#(a + b) ↔ x = 0#a := by
  rw [BitVec.and_append, BitVec.and_allOnes, BitVec.and_zero, ← BitVec.zero_append_zero, BitVec.append_left_inj]

/-- The mask of formats Z and RD keeps all of DATA. -/
theorem and_wholeMask_eq_zero_iff (data : BitVec 64) : data &&& 0xFFFFFFFFFFFFFFFF#64 = 0#64 ↔ data = 0#64 :=
  Eq.congr_left (BitVec.and_allOnes (x := data))

/-- The reserved bits of a command, read off its constructor, are those its opcode's mask selects in its DATA (R46). -/
theorem wellFormed_iff_reservedMask (i : Instr) :
    i.wellFormed = true ↔ dataOf i &&& reservedMask (opcodeOf i) = 0#64 := by
  cases i with
  | sample rsv smp => exact beq_iff_eq.trans (append_and_highMask_eq_zero_iff rsv smp).symm
  | wrN rsv val => exact beq_iff_eq.trans (append_and_highMask_eq_zero_iff rsv val).symm
  | wrRate fv | wrMarkf fv | wrSpacef fv => exact iff_of_true rfl BitVec.and_zero
  | nop data | endRun data | configure data | clearErr data =>
    exact beq_iff_eq.trans (and_wholeMask_eq_zero_iff data).symm
  | read sel data =>
    have hmask : ∀ sel : BitVec 6, reservedMask (0x40#8 + sel.setWidth 8) = 0xFFFFFFFFFFFFFFFF#64 := by decide
    rw [opcodeOf, hmask]
    exact beq_iff_eq.trans (and_wholeMask_eq_zero_iff data).symm

theorem readOpcode_opcodeOf (i : Instr) : readOpcode (opcodeOf i) = true ↔ ∃ sel data, i = .read sel data := by
  cases i with
  | read sel data =>
    rw [← read_prefix_iff_readOpcode, ← read_prefix_append_eq_opcodeOf]
    exact iff_of_true (read_prefix sel) ⟨sel, data, rfl⟩
  | _ => simp [opcodeOf, readOpcode]

/-- The one effect of a command with a nonzero reserved bit: the code, and a READ's one response word. -/
theorem Effect.eq_of_illFormed {s t : State} {i : Instr} (h : Effect s i t) (hbad : i.wellFormed = false) :
    t = { s with
      err := .reservedNonzero
      respOut := if readOpcode (opcodeOf i) = true then s.respOut ++ [0#64] else s.respOut } := by
  cases h with
  | reserved i hread _ =>
    rw [if_neg (by simpa [readOpcode_opcodeOf] using hread)]
    rfl
  | readReserved sel data _ =>
    rw [if_pos ((readOpcode_opcodeOf _).2 ⟨sel, data, rfl⟩)]
    rfl
  | _ => exact absurd hbad (by simp [Instr.wellFormed])

/-- Settles O5: a legal opcode is some command's, the mask finds that command's reserved bits, and a command with
one of them set has one effect. -/
theorem nonzeroReservedBitsAreRejected : Obligations.NonzeroReservedBitsAreRejected := by
  intro s w rest hin hlegal hbits
  cases hd : decode w with
  | illegalOpcode => exact absurd hlegal (ne_true_of_eq_false ((decode_eq_illegalOpcode_iff w).1 hd))
  | instr i =>
    obtain ⟨hopc, hdata⟩ : w.extractLsb' 64 8 = opcodeOf i ∧ w.extractLsb' 0 64 = dataOf i := fields_of_decode hd
    rw [hopc, hdata, ne_eq, ← wellFormed_iff_reservedMask, Bool.not_eq_true] at hbits
    obtain ⟨t, hexec, heffect⟩ := exec_effect i (s.taken rest)
    rw [step_instr hin hd, hexec, heffect.eq_of_illFormed hbits, hopc]
    rfl

end Sys2Proof.Machine
end

section
/-! Proofs of the family 40_tone_filter.md: PROCESS in pieces (R57). PROCESS is the fold of STEP over the sequence, so
the filter's registers and draw counter are all that one piece hands to the next. -/

namespace Sys2Proof.Machine

@[simp] theorem process_append (tone : Tone) (f : Filter) (a b : List F64) :
    f.process tone (a ++ b) = (f.process tone a).process tone b :=
  List.foldl_append

/-- Settles O39: the two equations of the recursion, and the concatenation by the fold over an append. -/
theorem processInPieces : Obligations.ProcessInPieces := fun tone f a b v =>
  ⟨process_nil tone f, process_cons tone f v a, process_append tone f a b⟩

end Sys2Proof.Machine
end

section
/-! Proofs of the family 41_tone_comparator.md: DECIDE (R63, R67), silence and blocks of one sample (R64, R66), and a
block of SAMPLE commands as PROCESS on both filters and one DECIDE (R62 to R66). -/

namespace Sys2Proof.Machine

open Sys2Proof.Claims

/-! ### What BLOCK_END leaves, and what SAMPLE does inside a block and at its end -/

@[simp] theorem blockEnd_bitOut (s : State) : (blockEnd s).bitOut = s.bitOut ++ [decideBit s] := by
  simp [blockEnd_eq, closedBlock]
@[simp] theorem blockEnd_mark (s : State) : (blockEnd s).mark = s.mark.clear := by simp [blockEnd_eq, closedBlock]
@[simp] theorem blockEnd_space (s : State) : (blockEnd s).space = s.space.clear := by simp [blockEnd_eq, closedBlock]
@[simp] theorem blockEnd_cnt (s : State) : (blockEnd s).cnt = 0#32 := by simp [blockEnd_eq, closedBlock]
@[simp] theorem blockEnd_staging (s : State) : (blockEnd s).staging = s.staging := by simp [blockEnd_eq, closedBlock]
@[simp] theorem blockEnd_active (s : State) : (blockEnd s).active = s.active := by simp [blockEnd_eq, closedBlock]
@[simp] theorem blockEnd_fullblk (s : State) : (blockEnd s).fullblk = true := by simp [blockEnd_eq, closedBlock]
@[simp] theorem blockEnd_respOut (s : State) : (blockEnd s).respOut = s.respOut := by simp [blockEnd_eq, closedBlock]
@[simp] theorem blockEnd_inbox (s : State) : (blockEnd s).inbox = s.inbox := by simp [blockEnd_eq, closedBlock]

/-- A SAMPLE accepted at a block's last place feeds both filters and ends the block. -/
theorem exec_sample_ending {s : State} (hctrl : s.ctrl = .configured) (hlast : s.cnt + 1#32 = s.active.n)
    (smp : BitVec 16) : exec (.sample 0#48 smp) s = .next (blockEnd (feed (i16ToF64 smp) s)) := by
  rw [exec_sample_configured hctrl]
  rcases acceptSample_cases smp s with ⟨hne, -⟩ | ⟨-, h⟩
  · exact absurd hlast hne
  · rw [h]

/-- A SAMPLE accepted at an earlier place of a block feeds both filters. -/
theorem exec_sample_within {s : State} (hctrl : s.ctrl = .configured) (hearly : s.cnt + 1#32 ≠ s.active.n)
    (smp : BitVec 16) : exec (.sample 0#48 smp) s = .next (feed (i16ToF64 smp) s) := by
  rw [exec_sample_configured hctrl]
  rcases acceptSample_cases smp s with ⟨-, h⟩ | ⟨hlast, -⟩
  · rw [h]
  · exact absurd hlast hearly

/-! ### DECIDE compares the magnitudes of the two filters -/

/-- The patterns a filter draws are one family of free patterns. -/
theorem magValue_mag (t : Tone) (f : Filter) : MagValue f (f.mag t) := ⟨f.nan t, isNaN_filter_nan t f, rfl⟩

/-- Settles O41: DECIDE is `fge`, which is the comparison of O51. -/
theorem decideComparesMagnitudes : Obligations.DecideComparesMagnitudes := fun s =>
  ⟨_, _, magValue_mag .mark s.mark, magValue_mag .space s.space, fgeIsTheRealComparison _ _⟩

/-! ### A NaN coefficient -/

/-- The last product of R58 passes a NaN coefficient on to the magnitude. -/
theorem isNaN_mag_of_isNaN_coeff (t : Tone) {f : Filter} (h : isNaN f.coeff = true) : isNaN (f.mag t) = true := by
  have hprod : isNaN (fmul (f.nan t 4) (fmul (f.nan t 3) f.q1 f.q2) f.coeff) = true := by
    rw [fmul_of_isNaN _ (.inr h)]
    exact isNaN_filter_nan t f 4
  rw [Filter.mag, fsub_of_isNaN _ (.inr hprod)]
  exact isNaN_filter_nan t f 5

theorem decideBit_of_isNaN_coeff {s : State} (h : isNaN s.mark.coeff = true ∨ isNaN s.space.coeff = true) :
    decideBit s = false := by
  rcases h with h | h
  · simp [decideBit, fge, isNaN_mag_of_isNaN_coeff .mark h]
  · simp [decideBit, fge, isNaN_mag_of_isNaN_coeff .space h]

/-- Settles O42: FEED keeps the coefficients, and DECIDE answers 0 for one that is a NaN. -/
theorem naNCoefficientGivesBitZero : Obligations.NaNCoefficientGivesBitZero := by
  intro s t smp hctrl hlast hnan hexec
  rw [exec_sample_ending hctrl hlast] at hexec
  cases hexec
  have hbit : decideBit (feed (i16ToF64 smp) s) = false := decideBit_of_isNaN_coeff hnan
  rw [blockEnd_bitOut, hbit, feed_bitOut]

/-! ### Arithmetic with zeros, which rounding and the free patterns leave alone -/

theorem isFinite_of_isZero {x : F64} (h : isZero x = true) : isFinite x = true := by
  rw [isFinite_iff, (isZero_iff x).1 h]
  decide

theorem exact_of_isZero {x : F64} (h : isZero x = true) : exact x = 0 := by
  simp [exact, units, (isZero_iff x).1 h, unitsOf_zero]

theorem isZero_pack_zero (neg : Bool) : isZero (pack neg 0) = true := by
  rw [isZero_iff, magnitude_pack neg (by decide)]

/-- A finite value is rounded to itself, its sign too when it is not zero. -/
theorem roundExact_exact {x : F64} (hx : isFinite x = true) (h0 : exact x ≠ 0) : roundExact (exact x) = x := by
  have hmag : roundMagnitude (units x) 1 = magnitude x := by
    rw [units, ← Nat.mul_one (unitsOf (magnitude x)), roundMagnitude_unitsOf _ Nat.one_pos,
      Nat.min_eq_left ((isFinite_iff x).1 hx).le]
  have hsign : decide (exact x < 0) = signBit x := by
    cases hs : signBit x with
    | true => rw [exact_of_neg hs] at h0 ⊢; exact decide_eq_true (by omega)
    | false => rw [exact_of_pos hs]; exact decide_eq_false (by omega)
  rw [roundExact, natAbs_exact, hmag, hsign, pack_sign_magnitude]

/-- A zero added keeps a value's sign and magnitude, except that of -0.0 (R7). -/
theorem fadd_isZero_left (nan : F64) {z x : F64} (hz : isZero z = true) (hx : isFinite x = true)
    (h0 : exact x = 0 → x = 0#64) : fadd nan z x = x := by
  rw [fadd_finite nan (isFinite_of_isZero hz) hx, exact_of_isZero hz, Int.zero_add]
  split
  next h => rw [h0 h, show signBit 0#64 = false by decide, Bool.and_false]; rfl
  next h => exact roundExact_exact hx h

/-- A zero added to a value that is no NaN keeps what the value stands for. -/
theorem fadd_isZero_right (nan : F64) {x z : F64} (hx : isNaN x = false) (hz : isZero z = true) :
    isNaN (fadd nan x z) = false ∧ exact (fadd nan x z) = exact x := by
  have hzf := isFinite_of_isZero hz
  cases hi : isInf x with
  | true =>
    have hkeep : fadd nan x z = x := by simp [fadd, hx, hi, finite_kinds hzf]
    rw [hkeep]
    exact ⟨hx, rfl⟩
  | false =>
    have hxf : isFinite x = true := by rw [isFinite_eq, hx, hi]; rfl
    rw [fadd_finite nan hxf hzf, exact_of_isZero hz, Int.add_zero]
    split
    next h => exact ⟨isNaN_pack _ (by decide), by rw [exact_of_isZero (isZero_pack_zero _), h]⟩
    next h =>
      rw [roundExact_exact hxf h]
      exact ⟨hx, rfl⟩

theorem isZero_fmul (nan : F64) {a b : F64} (ha : isFinite a = true) (hb : isFinite b = true)
    (hz : isZero a = true ∨ isZero b = true) : isZero (fmul nan a b) = true := by
  have hunits : units a * units b = 0 := by
    rcases hz with h | h <;> simp [units, (isZero_iff _).1 h, unitsOf_zero]
  rw [fmul_finite nan ha hb, hunits, roundMagnitude_zero oneUnits_pos]
  exact isZero_pack_zero _

theorem isZero_fsub (nan : F64) {a b : F64} (ha : isZero a = true) (hb : isZero b = true) :
    isZero (fsub nan a b) = true := by
  have hb' : isZero (fneg b) = true := by rwa [isZero_fneg]
  rw [fsub, fadd_finite nan (isFinite_of_isZero ha) (isFinite_of_isZero hb'), exact_of_isZero ha,
    exact_of_isZero hb', if_pos (Int.add_zero 0)]
  exact isZero_pack_zero _

/-! ### One STEP from a reset filter -/

/-- A filter as RESET leaves it (R60), with a coefficient that is neither a NaN nor an infinity. -/
structure Filter.Fresh (f : Filter) : Prop where
  coeff : isFinite f.coeff = true
  q1 : f.q1 = 0#64
  q2 : f.q2 = 0#64

/-- A sample's value is finite, and +0.0 is the only zero among them (R9). -/
theorem isFinite_i16ToF64 (smp : BitVec 16) : isFinite (i16ToF64 smp) = true :=
  (integerConversionsAreExact.1 smp).1

theorem i16ToF64_eq_zero {smp : BitVec 16} (h : exact (i16ToF64 smp) = 0) : i16ToF64 smp = 0#64 := by
  have hunits : (oneUnits : Int) ≠ 0 := by exact_mod_cast oneUnits_pos.ne'
  rw [(integerConversionsAreExact.1 smp).2] at h
  rw [i16ToF64, (Int.mul_eq_zero.1 h).resolve_right hunits, intToF64_zero]

/-- The first STEP of a block stores the sample itself: what it is added to is a zero. -/
theorem Filter.Fresh.step_q1 {f : Filter} (hf : f.Fresh) (t : Tone) (smp : BitVec 16) :
    (f.step t (i16ToF64 smp)).q1 = i16ToF64 smp := by
  have hprod : isZero (fmul (f.nan t 0) f.coeff f.q1) = true := by
    rw [hf.q1]
    exact isZero_fmul _ hf.coeff (by decide) (.inr (by decide))
  rw [Filter.step_q1]
  refine fadd_isZero_left _ (isZero_fsub _ hprod ?_) (isFinite_i16ToF64 smp) i16ToF64_eq_zero
  rw [hf.q2]
  decide

/-- With Q2 at +0.0 the magnitude is the square of Q1: R58's other terms are zeros. -/
theorem mag_of_q2_zero (t : Tone) {f : Filter} (hc : isFinite f.coeff = true) (h1 : isFinite f.q1 = true)
    (h2 : f.q2 = 0#64) : isNaN (f.mag t) = false ∧ exact (f.mag t) = exact (fmul 0#64 f.q1 f.q1) := by
  have hz : isZero f.q2 = true := by rw [h2]; decide
  have hq2 : isFinite f.q2 = true := isFinite_of_isZero hz
  have hcross : isZero (fmul (f.nan t 3) f.q1 f.q2) = true := isZero_fmul _ h1 hq2 (.inr hz)
  have hlast : isZero (fmul (f.nan t 4) (fmul (f.nan t 3) f.q1 f.q2) f.coeff) = true :=
    isZero_fmul _ (isFinite_of_isZero hcross) hc (.inl hcross)
  have hsquare : isNaN (fmul (f.nan t 0) f.q1 f.q1) = false := by
    rw [fmul_finite _ h1 h1]
    exact isNaN_pack _ (roundMagnitude_le _ _)
  have hsum := fadd_isZero_right (f.nan t 2) hsquare (isZero_fmul (f.nan t 1) hq2 hq2 (.inl hz))
  have hmag := fadd_isZero_right (f.nan t 5) hsum.1 (z := fneg _) ((isZero_fneg _).trans hlast)
  refine ⟨hmag.1, ?_⟩
  rw [Filter.mag, fsub, hmag.2, hsum.2, fmul_finite _ h1 h1, fmul_finite _ h1 h1]

/-- The first sample of a block decides 1: both filters hold that sample and nothing else. -/
theorem decideBit_feed_of_fresh {s : State} (hm : s.mark.Fresh) (hs : s.space.Fresh) (smp : BitVec 16) :
    decideBit (feed (i16ToF64 smp) s) = true := by
  have hmark := mag_of_q2_zero .mark (f := s.mark.step .mark (i16ToF64 smp)) hm.coeff
    (by rw [hm.step_q1]; exact isFinite_i16ToF64 smp) hm.q1
  have hspace := mag_of_q2_zero .space (f := s.space.step .space (i16ToF64 smp)) hs.coeff
    (by rw [hs.step_q1]; exact isFinite_i16ToF64 smp) hs.q1
  rw [hm.step_q1] at hmark
  rw [hs.step_q1] at hspace
  rw [decideBit, feed_mark, feed_space, fge_eq_decide_exact_le hmark.1 hspace.1, hmark.2, hspace.2]
  exact decide_eq_true le_rfl

/-- Settles O43: a STEP by the sample 0 stores +0.0 again, and a block's end finds the filters as after their first
sample. -/
theorem silenceDecidesMark : Obligations.SilenceDecidesMark := by
  intro s t hctrl hcm hcs hm1 hm2 hs1 hs2 hexec
  have hm : s.mark.Fresh := ⟨hcm, hm1, hm2⟩
  have hs : s.space.Fresh := ⟨hcs, hs1, hs2⟩
  by_cases hlast : s.cnt + 1#32 = s.active.n
  · rw [exec_sample_ending hctrl hlast] at hexec
    cases hexec
    simp [hlast, posZero, decideBit_feed_of_fresh hm hs]
  · have hzero : i16ToF64 0#16 = 0#64 := intToF64_zero
    rw [exec_sample_within hctrl hlast] at hexec
    cases hexec
    refine ⟨?_, hm1, ?_, hs1, fun h => absurd h hlast, fun _ => rfl⟩
    · exact (hm.step_q1 .mark 0#16).trans hzero
    · exact (hs.step_q1 .space 0#16).trans hzero

/-- Settles O44: the one sample is the first of its block and its last. -/
theorem oneSampleBlocksDecideMark : Obligations.OneSampleBlocksDecideMark := by
  intro s smp hctrl hn hcnt hcm hcs hm1 hm2 hs1 hs2
  have hlast : s.cnt + 1#32 = s.active.n := by rw [hn, hcnt]; rfl
  refine ⟨_, exec_sample_ending hctrl hlast smp, ?_, blockEnd_cnt _⟩
  rw [blockEnd_bitOut, decideBit_feed_of_fresh ⟨hcm, hm1, hm2⟩ ⟨hcs, hs1, hs2⟩, feed_bitOut]

/-! ### A block of SAMPLE commands -/

/-- FEED of a sequence of values, earliest first. -/
def feedAll (seq : List F64) (s : State) : State := seq.foldl (fun acc v => feed v acc) s

theorem feedAll_cons (v : F64) (seq : List F64) (s : State) : feedAll (v :: seq) s = feedAll seq (feed v s) := rfl

/-- FEED of a sequence is PROCESS of both filters on it, with the values counted; nothing else changes. -/
theorem feedAll_eq (seq : List F64) (s : State) :
    feedAll seq s = { s with
      mark := s.mark.process .mark seq
      space := s.space.process .space seq
      cnt := s.cnt + BitVec.ofNat 32 seq.length } := by
  induction seq generalizing s with
  | nil => simp [feedAll]
  | cons v seq ih =>
    have hcnt : s.cnt + 1#32 + BitVec.ofNat 32 seq.length = s.cnt + BitVec.ofNat 32 (seq.length + 1) := by
      rw [Nat.add_comm, BitVec.ofNat_add, BitVec.add_assoc]
    rw [feedAll_cons, ih, List.length_cons, ← hcnt]
    rfl

theorem process_sameCoefficients (t : Tone) (f : Filter) (seq : List F64) :
    SameCoefficients f (f.process t seq) := by
  induction seq generalizing f with
  | nil => simp [SameCoefficients]
  | cons v seq ih => exact ih (f.step t v)

/-- A RESET after any PROCESS leaves the filter as a RESET alone does, draws apart. -/
theorem sameRegisters_clear_process (t : Tone) (f : Filter) (seq : List F64) :
    SameRegisters (cleared f) (f.process t seq).clear :=
  ⟨process_sameCoefficients t f seq, rfl, rfl⟩

theorem decode_sampleWord (smp : BitVec 16) :
    decode (0x01#8 ++ (0#48 ++ smp)) = .instr (.sample 0#48 smp) := by
  change decode (mkWord 0x01#8 (0#48 ++ smp)) = _
  simp [decode]

theorem step_sample {s : State} {smp : BitVec 16} {smps : List (BitVec 16)} {rest : List HostInput}
    (hin : s.inbox = sampleInputs (smp :: smps) ++ rest) :
    step s = exec (.sample 0#48 smp) (s.taken (sampleInputs smps ++ rest)) :=
  step_instr hin (decode_sampleWord smp)

theorem run_succ_of_step (M : Host.Core) {s t : M.State} (h : M.step s = .next t) (k : Nat) :
    M.run (k + 1) s = M.run k t := by
  rw [Host.Core.run, h]

/-- The rest of a block, from any place in it: its samples are fed in order, and the last one ends it. -/
theorem run_restOfBlock (smps : List (BitVec 16)) {s : State} {rest : List HostInput} (hctrl : s.ctrl = .configured)
    (hne : smps ≠ []) (hcount : s.cnt.toNat + smps.length = s.active.n.toNat)
    (hin : s.inbox = sampleInputs smps ++ rest) :
    core.run smps.length s = .next (blockEnd (feedAll (smps.map i16ToF64) (s.taken rest))) := by
  induction smps generalizing s with
  | nil => exact absurd rfl hne
  | cons smp smps ih =>
    rw [List.length_cons] at hcount ⊢
    have hcnt : (s.cnt + 1#32).toNat = s.cnt.toNat + 1 := by bv_omega
    rcases eq_or_ne smps [] with rfl | hmore
    · have hlast : s.cnt + 1#32 = s.active.n := BitVec.eq_of_toNat_eq (hcnt.trans hcount)
      exact run_succ_of_step core ((step_sample hin).trans (exec_sample_ending (s := s.taken (sampleInputs [] ++ rest)) hctrl hlast smp)) 0
    · have hpos := List.length_pos_iff.2 hmore
      have hearly : s.cnt + 1#32 ≠ s.active.n := by
        intro h
        rw [h] at hcnt
        omega
      rw [run_succ_of_step core ((step_sample hin).trans (exec_sample_within (s := s.taken (sampleInputs smps ++ rest)) hctrl hearly smp))]
      have hrest : (s.cnt + 1#32).toNat + smps.length = s.active.n.toNat := by omega
      exact ih hctrl hmore hrest rfl

/-- Settles O46: the whole block is the rest of a block from its first place, and FEED of a sequence is PROCESS. -/
theorem aBlockOfSamplesDecidesOneBit : Obligations.ABlockOfSamplesDecidesOneBit := by
  intro s smps rest hctrl hcnt hne hlen hin
  have hcount : s.cnt.toNat + smps.length = s.active.n.toNat := by rw [hcnt, hlen]; exact Nat.zero_add _
  refine ⟨_, run_restOfBlock smps hctrl hne hcount hin, ?_⟩
  rw [feedAll_eq]
  simp [decideBit, State.taken, sameRegisters_clear_process]

end Sys2Proof.Machine
end

section
/-! Proofs of the family 42_frame_decoder.md: the tenth bit reads a whole frame, and a sequence of bits is read
frame by frame. -/

namespace Sys2Proof.Machine

open Sys2Proof.Claims

/-! ### The character of a complete frame -/

/-- The weights of a number's set bits below `n` sum to its lowest `n` bits. -/
theorem sum_bitWeights (m n : Nat) :
    ((List.range n).map fun i => if m.testBit i then 2 ^ i else 0).sum = m % 2 ^ n := by
  induction n with
  | zero => simp [Nat.mod_one]
  | succ n ih =>
    rw [List.sum_range_succ, ih, Nat.mod_pow_succ, Nat.testBit_eq_decide_div_mod_eq]
    rcases Nat.mod_two_eq_zero_or_one (m / 2 ^ n) with h | h <;> simp [h]

/-- R71: the weights of a word's bits sum to the word. -/
theorem ofNat_sum_bitWeights {n : Nat} (w : BitVec n) :
    BitVec.ofNat n (((List.range n).map fun i => if w.getLsbD i then 2 ^ i else 0).sum) = w := by
  simp only [BitVec.getLsbD, sum_bitWeights, Nat.mod_eq_of_lt w.isLt, BitVec.ofNat_toNat, BitVec.setWidth_eq]

/-- Bit `i` of a frame's code is the frame's cell `1 + i` (R71). -/
theorem getLsbD_frameCode (c : BitVec 10) {i : Nat} (hi : i < 7) : (frameCode c).getLsbD i = c.getLsbD (1 + i) := by
  simp [frameCode, hi]

/-- The model's reading of a frame is the reading of its cells (R70, R71). -/
theorem emitted_eq_frameChars (c : BitVec 10) : emitted c = frameChars c.getLsbD := by
  have hcode : BitVec.ofNat 7 (((List.range 7).map fun i => if c.getLsbD (1 + i) then 2 ^ i else 0).sum)
      = frameCode c := by
    rw [← ofNat_sum_bitWeights (frameCode c)]
    congr 2
    refine List.map_congr_left fun i hi => ?_
    rw [getLsbD_frameCode c (List.mem_range.1 hi)]
  unfold emitted frameChars
  rw [hcode]
  simp [frameValid]

/-- R72: the reading of a frame does not look at bit 8, nor past the ten cells. -/
theorem frameChars_congr {c d : Nat → Bool} (h : ∀ j, j < 10 → j ≠ 8 → c j = d j) : frameChars c = frameChars d := by
  have hcode : ((List.range 7).map fun i => if c (1 + i) then 2 ^ i else 0)
      = (List.range 7).map fun i => if d (1 + i) then 2 ^ i else 0 := by
    refine List.map_congr_left fun i hi => ?_
    have hi := List.mem_range.1 hi
    rw [h (1 + i) (by omega) (by omega)]
  unfold frameChars
  rw [hcode, h 0 (by decide) (by decide), h 9 (by decide) (by decide)]

/-- What the tenth bit emits: the reading of the nine cells before it and itself. -/
theorem emitted_setCell_nine (fbits : BitVec 10) (stop : Bool) :
    emitted (setCell fbits 9 stop) = frameChars fun j => if j = 9 then stop else fbits.getLsbD j := by
  rw [emitted_eq_frameChars]
  exact frameChars_congr fun j hj _ => getLsbD_setCell fbits 9 j stop hj

/-- R72: a frame whose bit 8 is flipped emits the same. -/
theorem emitted_flip_bit8 (fbits : BitVec 10) (stop : Bool) :
    emitted (setCell (fbits ^^^ 0x100#10) 9 stop) = emitted (setCell fbits 9 stop) := by
  rw [emitted_setCell_nine, emitted_setCell_nine]
  refine frameChars_congr fun j _ h8 => ?_
  have hflip : (0x100#10).getLsbD j = false := by
    rw [show 0x100#10 = BitVec.twoPow 10 8 from rfl, BitVec.getLsbD_twoPow]
    simp [Ne.symm h8]
  rw [BitVec.getLsbD_xor, hflip, Bool.xor_false]

/-- Settles O48: the tenth bit appends the reading of its frame, which is one code or nothing, and that reading
does not look at bit 8. -/
theorem tenthBitDecodesTheFrame : Obligations.TenthBitDecodesTheFrame := by
  intro s stop h9
  refine ⟨fun hvalid => ?valid, fun hinvalid => ?invalid, ?bit8⟩
  case valid =>
    rw [asmPush_last stop s h9, emitted_setCell_nine, frameChars, if_pos (by simpa using hvalid)]
    rfl
  case invalid =>
    rw [asmPush_last stop s h9, emitted_setCell_nine, frameChars, if_neg (by simpa using hinvalid), List.append_nil]
  case bit8 =>
    intro s' hs'
    have h9' : s'.fcnt = 9#4 := by rw [hs', h9]
    rw [asmPush_last stop s' h9', asmPush_last stop s h9, hs', emitted_flip_bit8]

/-! ### The frame register after a sequence of bits -/

theorem pushAll_append (bits more : List Bool) (s : State) :
    pushAll (bits ++ more) s = pushAll more (pushAll bits s) := List.foldl_append

theorem pushAll_concat (bits : List Bool) (b : Bool) (s : State) :
    pushAll (bits ++ [b]) s = asmPush b (pushAll bits s) := pushAll_append bits [b] s

/-- The frame register that holds `bits`, earliest first, and zeros in the cells after them. -/
def frameRegister (bits : List Bool) : BitVec 10 := (BitVec.ofBoolListLE bits).setWidth 10

theorem getLsbD_frameRegister (bits : List Bool) {j : Nat} (hj : j < 10) :
    (frameRegister bits).getLsbD j = bits.getD j false := by
  simp [frameRegister, BitVec.getLsbD_ofBoolListLE, hj]

/-- The next bit is written into the first free cell (R68). -/
theorem setCell_frameRegister (bits : List Bool) (b : Bool) :
    setCell (frameRegister bits) bits.length b = frameRegister (bits ++ [b]) := by
  refine BitVec.eq_of_getLsbD_eq fun j hj => ?_
  rw [getLsbD_setCell _ _ _ _ hj, getLsbD_frameRegister _ hj, getLsbD_frameRegister _ hj]
  rcases Nat.lt_trichotomy j bits.length with hlt | rfl | hgt
  · rw [if_neg hlt.ne, List.getD_append _ _ _ _ hlt]
  · simp
  · rw [if_neg hgt.ne', List.getD_eq_default _ _ hgt.le, List.getD_eq_default _ _ (by simpa using hgt)]

/-- Fewer than ten bits pushed on an empty frame register wait in it. -/
theorem pushAll_partialFrame (bits : List Bool) {s : State} (hcnt : s.fcnt = 0#4) (hbits : s.fbits = 0#10)
    (hlen : bits.length < 10) :
    pushAll bits s = { s with
      fbits := frameRegister bits, fcnt := BitVec.ofNat 4 bits.length, bitOut := s.bitOut ++ bits } := by
  induction bits using List.reverseRecOn with
  | nil =>
    rw [List.append_nil, List.length_nil, ← hcnt, show frameRegister [] = s.fbits from hbits.symm]
    rfl
  | append_singleton bits b ih =>
    rw [List.length_append, List.length_singleton] at hlen ⊢
    have hfcnt : (BitVec.ofNat 4 bits.length).toNat = bits.length := by
      rw [BitVec.toNat_ofNat]; omega
    have hearly : BitVec.ofNat 4 bits.length ≠ 9#4 := by
      intro h
      rw [h] at hfcnt
      have : 9 = bits.length := hfcnt
      omega
    rw [pushAll_concat, ih (by omega), asmPush_early b _ hearly, hfcnt, setCell_frameRegister,
      BitVec.ofNat_add, List.append_assoc]

/-- Ten bits pushed on an empty frame register emit their frame's reading and leave the register empty. -/
theorem pushAll_frame (frame : List Bool) {s : State} (hcnt : s.fcnt = 0#4) (hbits : s.fbits = 0#10)
    (hlen : frame.length = 10) :
    pushAll frame s = { s with
      bitOut := s.bitOut ++ frame, charOut := s.charOut ++ frameChars fun j => frame.getD j false } := by
  rcases List.eq_nil_or_concat' frame with rfl | ⟨bits, b, rfl⟩
  · contradiction
  · have hnine : bits.length = 9 := by simpa using hlen
    have hread : emitted (setCell (frameRegister bits) 9 b) = frameChars fun j => (bits ++ [b]).getD j false := by
      rw [← hnine, setCell_frameRegister, emitted_eq_frameChars]
      exact frameChars_congr fun j hj _ => getLsbD_frameRegister _ hj
    rw [pushAll_concat, pushAll_partialFrame bits hcnt hbits (by omega), hnine, asmPush_last b]
    · rw [hread, List.append_assoc, ← hcnt, ← hbits]
    · rfl

/-! ### The batch reading (R69) -/

theorem decodeBits_frame_append : ∀ (frame rest : List Bool), frame.length = 10 →
    decodeBits (frame ++ rest) = frameChars (fun j => frame.getD j false) ++ decodeBits rest
  | [_, _, _, _, _, _, _, _, _, _], _, _ => rfl

theorem decodeBits_of_short {bits : List Bool} (h : bits.length < 10) : decodeBits bits = [] := by
  unfold decodeBits
  split
  · simp at h
    omega
  · rfl

/-- On an empty frame register the full frames are read one after the other, and the bits after the last one wait
in the register. -/
theorem pushAll_eq (bits : List Bool) {s : State} (hcnt : s.fcnt = 0#4) (hbits : s.fbits = 0#10) :
    pushAll bits s = { s with
      fbits := frameRegister (bits.drop (10 * (bits.length / 10)))
      fcnt := BitVec.ofNat 4 (bits.length % 10)
      bitOut := s.bitOut ++ bits
      charOut := s.charOut ++ decodeBits bits } := by
  induction hn : bits.length using Nat.strong_induction_on generalizing bits s with
  | _ n ih =>
    subst hn
    rcases Nat.lt_or_ge bits.length 10 with hshort | hlong
    · rw [pushAll_partialFrame bits hcnt hbits hshort, decodeBits_of_short hshort, Nat.div_eq_of_lt hshort,
        Nat.mod_eq_of_lt hshort, List.append_nil]
      rfl
    · obtain ⟨frame, rest, rfl, hframe⟩ : ∃ frame rest, bits = frame ++ rest ∧ frame.length = 10 :=
        ⟨bits.take 10, bits.drop 10, (List.take_append_drop 10 bits).symm, List.length_take_of_le hlong⟩
      have hlen : (frame ++ rest).length = rest.length + 10 := by rw [List.length_append, hframe, Nat.add_comm]
      have hdrop : (frame ++ rest).drop (10 * ((rest.length + 10) / 10)) = rest.drop (10 * (rest.length / 10)) := by
        rw [Nat.add_div_right _ (by decide), Nat.mul_succ, Nat.add_comm, ← List.drop_drop,
          List.drop_left' hframe]
      rw [hlen, hdrop, Nat.add_mod_right, pushAll_append, pushAll_frame frame hcnt hbits hframe,
        decodeBits_frame_append frame rest hframe, ← List.append_assoc, ← List.append_assoc]
      exact ih rest.length (by omega) rest hcnt hbits rfl

/-- Settles O50: the state after the sequence is known outright, and its frame register holds the remainder. -/
theorem framingIsAFixedPartition : Obligations.FramingIsAFixedPartition := by
  intro s bits hcnt hbits
  rw [pushAll_eq bits hcnt hbits]
  exact ⟨rfl, fun j hj => getLsbD_frameRegister _ hj⟩

end Sys2Proof.Machine
end

section
/-! Proofs of the family 43_commands.md: what each command answers (R77 to R86), and that READs and response words
pair. A command with a reserved bit set has one answer, whatever the command; an accepted one has its one effect. -/

namespace Sys2Proof.Machine

open Sys2Proof.Claims Sys2Proof.Laws

/-! ### Commands with a nonzero reserved bit, and the commands of one assignment -/

/-- A command with a reserved bit set records RESERVED_NONZERO; a READ still appends its word. -/
theorem exec_of_illFormed {i : Instr} (s : State) (hbad : i.wellFormed = false) :
    exec i s = .next { s with
      err := .reservedNonzero
      respOut := if readOpcode (opcodeOf i) = true then s.respOut ++ [0#64] else s.respOut } := by
  obtain ⟨t, hexec, heffect⟩ := exec_effect i s
  rw [hexec, heffect.eq_of_illFormed hbad]

/-- Settles O21: NOP's two answers are the accepted one and the one of every command with a reserved bit set. -/
theorem nopChangesNothing : Obligations.NopChangesNothing :=
  ⟨rfl, fun s => ⟨rfl, fun _ hdata => exec_of_illFormed s (beq_false_of_ne hdata)⟩⟩

/-- Settles O22: a write command is one assignment, and only WR_N can have a reserved bit set. -/
theorem writeCommandsStageTheirOperand : Obligations.WriteCommandsStageTheirOperand :=
  ⟨fun _ => ⟨rfl, rfl, rfl⟩, fun _ => rfl,
    fun s => ⟨fun _ => ⟨rfl, rfl, rfl⟩, fun _ => rfl, fun _ _ hrsv => exec_of_illFormed s (beq_false_of_ne hrsv)⟩⟩

/-- Settles O23: CLEAR_ERR is the acknowledgement, unless a reserved bit is set. -/
theorem clearErrClearsOnlyErr : Obligations.ClearErrClearsOnlyErr :=
  ⟨rfl, fun s => ⟨rfl, fun _ hdata => exec_of_illFormed s (beq_false_of_ne hdata)⟩⟩

/-- Settles O30: SAMPLE and END fail on reserved bits as every command does, and on STATE by their second check. -/
theorem sampleAndEndRejections : Obligations.SampleAndEndRejections := fun s =>
  ⟨fun _ _ hrsv => exec_of_illFormed s (beq_false_of_ne hrsv),
    fun _ hdata => exec_of_illFormed s (beq_false_of_ne hdata),
    fun hctrl => ⟨exec_sample_refused hctrl, exec_endRun_refused hctrl⟩⟩

/-! ### READ: which register it returns, and that its word is the only one -/

/-- READ of an assigned selector whose value takes no arithmetic appends that value. -/
theorem exec_read_register {s : State} {sel : BitVec 6} {v : BitVec 64} (r : ReadTarget)
    (hsel : readTarget sel = some r := by rfl) (hval : readValue s r = v := by rfl)
    (hstill : spendRead s r = s := by rfl) :
    exec (.read sel 0#64) s = .next { s with respOut := s.respOut ++ [v] } := by
  rcases execRead_cases sel 0#64 s with ⟨h, -⟩ | ⟨-, hnone, -⟩ | ⟨r', -, hr', h⟩
  · exact absurd rfl h
  · rw [hsel] at hnone
    cases hnone
  · rw [hsel, Option.some.injEq] at hr'
    subst hr'
    rw [exec, h, hval, hstill]
    rfl

/-- A narrower register is zero-extended (20_memory.md R31). -/
theorem setWidth_64_eq_append (x : BitVec 32) : x.setWidth 64 = 0#32 ++ x :=
  BitVec.setWidth_eq_append (by decide)

/-- Settles O33: each selector's target, in the order of R26's map. -/
theorem readReturnsTheMappedRegister : Obligations.ReadReturnsTheMappedRegister := by
  intro s
  refine List.forall_mem_append.2 ⟨List.forall_mem_append.2 ⟨?control, ?mark⟩, ?space⟩
  case control =>
    simp only [List.forall_mem_cons, List.not_mem_nil, false_implies, implies_true, and_true]
    exact ⟨exec_read_register .status, exec_read_register .stgRate,
      exec_read_register .stgN (hval := setWidth_64_eq_append _), exec_read_register .stgMarkf,
      exec_read_register .stgSpacef, exec_read_register .rate,
      exec_read_register .n (hval := setWidth_64_eq_append _), exec_read_register .markf,
      exec_read_register .spacef, exec_read_register .cnt (hval := setWidth_64_eq_append _),
      exec_read_register .frame⟩
  case mark =>
    simp only [List.forall_mem_cons, List.not_mem_nil, false_implies, implies_true, and_true]
    exact ⟨exec_read_register (.filter .mark .q1), exec_read_register (.filter .mark .q2),
      exec_read_register (.filter .mark .coeff), exec_read_register (.filter .mark .cos),
      exec_read_register (.filter .mark .sin), exec_read_register (.filter .mark .k),
      exec_read_register (.filter .mark .kint)⟩
  case space =>
    simp only [List.forall_mem_cons, List.not_mem_nil, false_implies, implies_true, and_true]
    exact ⟨exec_read_register (.filter .space .q1), exec_read_register (.filter .space .q2),
      exec_read_register (.filter .space .coeff), exec_read_register (.filter .space .cos),
      exec_read_register (.filter .space .sin), exec_read_register (.filter .space .k),
      exec_read_register (.filter .space .kint)⟩

/-- R26's three unassigned ranges. -/
theorem readTarget_unassigned : ∀ sel : BitVec 6,
    (0x0B ≤ sel.toNat ∧ sel.toNat ≤ 0x0F) ∨ (0x1A ≤ sel.toNat ∧ sel.toNat ≤ 0x1F) ∨ 0x2A ≤ sel.toNat →
      readTarget sel = none := by
  decide

theorem exec_read_unassigned {sel : BitVec 6} (s : State) (hsel : readTarget sel = none) :
    exec (.read sel 0#64) s = .next { s with err := .badSelect, respOut := s.respOut ++ [0#64] } := by
  rw [exec, execRead, hsel]
  rfl

/-- Settles O35: the selector's ranges are the ones the map leaves open, and reserved bits are checked first. -/
theorem erroneousReadAppendsZero : Obligations.ErroneousReadAppendsZero := by
  intro s sel
  refine ⟨fun hsel => exec_read_unassigned s (readTarget_unassigned sel hsel), fun data hdata => ?_⟩
  rw [exec_of_illFormed s (i := .read sel data) (beq_false_of_ne hdata),
    if_pos ((readOpcode_opcodeOf _).2 ⟨sel, data, rfl⟩)]

@[simp] theorem flushBlock_respOut (s : State) : (flushBlock s).respOut = s.respOut := by
  rcases flushBlock_cases s with ⟨-, h⟩ | ⟨-, -, h⟩ | ⟨-, -, h⟩ <;> simp [h]

@[simp] theorem spendRead_respOut (s : State) (r : ReadTarget) : (spendRead s r).respOut = s.respOut := by
  obtain ⟨_, _, h⟩ := spendRead_eq s r; simp [h]

/-- A READ appends one word by each of its effects, a rejection too. -/
theorem Effect.respOut_of_read {s t : State} {sel : BitVec 6} {data : BitVec 64} (h : Effect s (.read sel data) t) :
    ∃ v, t.respOut = s.respOut ++ [v] := by
  cases h with
  | reserved _ hread _ => exact absurd rfl (hread sel data)
  | readReserved => exact ⟨0#64, rfl⟩
  | readUnassigned => exact ⟨0#64, rfl⟩
  | read _ r => exact ⟨readValue s r, by simp⟩

/-- No other command appends a word. -/
theorem Effect.respOut_of_not_read {s t : State} {i : Instr} (h : Effect s i t)
    (hi : ∀ sel data, i ≠ .read sel data) : t.respOut = s.respOut := by
  cases h with
  | readReserved sel data | readUnassigned sel | read sel => exact absurd rfl (hi sel _)
  | _ => simp

/-- A word with a READ opcode decodes to a READ, and no other word does, whether it is a command or none. -/
theorem step_command_respOut {s t : State} {w : CommandWord} {rest : List HostInput}
    (hin : s.inbox = .command w :: rest) (h : step s = .next t) :
    (readOpcode (opcField w) = true → ∃ v, t.respOut = s.respOut ++ [v]) ∧
      (readOpcode (opcField w) = false → t.respOut = s.respOut) := by
  cases hd : decode w with
  | instr i =>
    rw [step_instr hin hd] at h
    have heffect := effect_of_exec h
    rw [← Bool.not_eq_true, (fields_of_decode hd).1, readOpcode_opcodeOf]
    refine ⟨?_, fun hnot => heffect.respOut_of_not_read fun sel data hi => hnot ⟨sel, data, hi⟩⟩
    rintro ⟨sel, data, rfl⟩
    exact heffect.respOut_of_read
  | illegalOpcode =>
    rw [step_illegal hin hd] at h
    cases h
    have hread : readOpcode (opcField w) = false := (Bool.or_eq_false_iff.1 ((decode_eq_illegalOpcode_iff w).1 hd)).2
    exact ⟨fun hread' => absurd hread' (ne_true_of_eq_false hread), fun _ => rfl⟩

/-- Settles O12: the two kinds of input are a word, by its opcode, and the reset event, which keeps the channels. -/
theorem readsAndResponsesPair : Obligations.ReadsAndResponsesPair := by
  intro s t input rest hin h
  cases input with
  | command w =>
    obtain ⟨hread, hother⟩ := step_command_respOut hin h
    refine ⟨fun w' hw' => ?_, fun hnot => hother (hnot w rfl)⟩
    cases hw'
    exact hread
  | reset =>
    rw [step_reset hin] at h
    cases h
    exact ⟨fun _ hw => (nomatch hw), fun _ => rfl⟩

/-! ### CONFIGURE -/

theorem exec_configure_valid {s : State} (hvalid : stagedValid s.staging = true) :
    exec (.configure 0#64) s = .next (construct s) := by
  rw [stagedValid_eq_validConfig] at hvalid
  simp [exec, execConfigure, hvalid]

theorem exec_configure_invalid {s : State} (hinvalid : stagedValid s.staging = false) :
    exec (.configure 0#64) s = .next { s with ctrl := .cfgError, err := .badConfig } := by
  rw [stagedValid_eq_validConfig] at hinvalid
  simp [exec, execConfigure, hinvalid, reject]

/-- Settles O25: the validation fails, or the reserved bits do before it. -/
theorem failedConfigureConstructsNothing : Obligations.FailedConfigureConstructsNothing := fun s =>
  ⟨exec_configure_invalid, fun _ hdata => exec_of_illFormed s (beq_false_of_ne hdata)⟩

theorem sameF64_openResult {nan : F64} (hnan : isNaN nan = true) (x : F64) : SameF64 (openResult nan x) x := by
  unfold openResult
  split
  · exact .inr ⟨hnan, ‹_›⟩
  · exact .inl rfl

/-- The patterns of DERIVE's six operations: the draws of COS64 and SIN64 stand between the fifth and the last. -/
def Filter.derivePatterns (t : Tone) (f : Filter) (j : Nat) : F64 := f.nan t (if j = 5 then 7 else j)

/-- DERIVE's omega (R52). -/
def Filter.deriveOmega (t : Tone) (f : Filter) (n : BitVec 32) (freq rate : F64) : F64 :=
  omegaOf (f.nan t 2) (f.nan t 3) (f.nan t 4) (f.derive t n freq rate).k n

@[simp] theorem derive_k (t : Tone) (f : Filter) (n : BitVec 32) (freq rate : F64) :
    (f.derive t n freq rate).k = fdiv (f.nan t 1) (fmul (f.nan t 0) (u32ToF64 n) freq) rate := by
  rw [Filter.derive]

@[simp] theorem derive_kint (t : Tone) (f : Filter) (n : BitVec 32) (freq rate : F64) :
    (f.derive t n freq rate).kint = truncSatU64 (f.derive t n freq rate).k := by
  rw [Filter.derive]

@[simp] theorem derive_cos (t : Tone) (f : Filter) (n : BitVec 32) (freq rate : F64) :
    (f.derive t n freq rate).cos = openResult (f.nan t 5) (Config.cos64 (f.deriveOmega t n freq rate)) := by
  rw [Filter.deriveOmega, Filter.derive]

@[simp] theorem derive_sin (t : Tone) (f : Filter) (n : BitVec 32) (freq rate : F64) :
    (f.derive t n freq rate).sin = openResult (f.nan t 6) (Config.sin64 (f.deriveOmega t n freq rate)) := by
  rw [Filter.deriveOmega, Filter.derive]

@[simp] theorem derive_coeff (t : Tone) (f : Filter) (n : BitVec 32) (freq rate : F64) :
    (f.derive t n freq rate).coeff = fmul (f.nan t 7) two (f.derive t n freq rate).cos := by
  rw [Filter.derive]

theorem constructed_derive (t : Tone) (f : Filter) (n : BitVec 32) (freq rate : F64) :
    Constructed (f.derive t n freq rate) n freq rate := by
  refine ⟨f.derivePatterns t, f.deriveOmega t n freq rate, fun _ => isNaN_filter_nan t f _, ?k, ?omega, ?cos, ?sin,
    ?coeff, derive_kint t f n freq rate, rfl, rfl⟩
  case k => rw [derive_k]; rfl
  case omega => rw [Filter.deriveOmega, omegaOf]; rfl
  case cos => rw [derive_cos]; exact sameF64_openResult (isNaN_filter_nan t f 5) _
  case sin => rw [derive_sin]; exact sameF64_openResult (isNaN_filter_nan t f 6) _
  case coeff => rw [derive_coeff]; rfl

/-- Settles O24: both filters are the ones DERIVE constructs, and the rest is `construct` itself. -/
theorem configureConstructsBothFilters : Obligations.ConfigureConstructsBothFilters := fun _ hvalid =>
  ⟨_, exec_configure_valid hvalid, constructed_derive .mark _ _ _ _, constructed_derive .space _ _ _ _, rfl⟩

/-! ### Values that are no NaN do not depend on the free patterns -/

theorem fdiv_of_isNaN (nan : F64) {a b : F64} (h : isNaN a = true ∨ isNaN b = true) : fdiv nan a b = nan := by
  unfold fdiv; rcases h with h | h <;> simp [h]

/-- Where a quotient is no NaN, the free pattern offered for it does not show. -/
theorem fdiv_pattern {n a b : F64} (n' : F64) (hn : isNaN n = true) (h : isNaN (fdiv n a b) = false) :
    fdiv n' a b = fdiv n a b := by
  unfold fdiv at h ⊢; simp only at h ⊢; split_ifs at h ⊢ <;> simp_all

/-- An operation that passes NaNs on had none to pass on where its result is no NaN. -/
theorem operands_not_isNaN {op : F64 → F64 → F64 → F64}
    (hop : ∀ n {a b : F64}, isNaN a = true ∨ isNaN b = true → op n a b = n) {n a b : F64} (hn : isNaN n = true)
    (h : isNaN (op n a b) = false) : isNaN a = false ∧ isNaN b = false := by
  rw [← Bool.or_eq_false_iff]
  by_contra hnan
  rw [hop n (by simpa [or_iff_not_imp_left] using hnan), hn] at h
  cases h

/-- The magnitude of given registers, where it is no NaN, is one value whatever patterns are drawn. -/
theorem magValue_unique {f g : Filter} {m m' : F64} (hm : MagValue f m) (hm' : MagValue g m')
    (hcoeff : f.coeff = g.coeff) (hq1 : f.q1 = g.q1) (hq2 : f.q2 = g.q2) (h : isNaN m = false) : m' = m := by
  obtain ⟨nan, hn, rfl⟩ := hm
  obtain ⟨nan', -, rfl⟩ := hm'
  obtain ⟨hsum, hlast⟩ := operands_not_isNaN fsub_of_isNaN (hn 5) h
  obtain ⟨hsquare1, hsquare2⟩ := operands_not_isNaN fadd_of_isNaN (hn 2) hsum
  obtain ⟨hcross, -⟩ := operands_not_isNaN fmul_of_isNaN (hn 4) hlast
  rw [← hcoeff, ← hq1, ← hq2, fmul_pattern (nan' 0) (hn 0) hsquare1, fmul_pattern (nan' 1) (hn 1) hsquare2,
    fmul_pattern (nan' 3) (hn 3) hcross, fmul_pattern (nan' 4) (hn 4) hlast, fadd_pattern (nan' 2) (hn 2) hsum]
  exact fadd_pattern (nan' 5) (hn 5) h

theorem fge_refl {x : F64} (h : isNaN x = false) : fge x x = true := by simp [fge, h]

/-- Settles O45: the two magnitudes are one value, and a tie goes to mark. -/
theorem equalFiltersDecideMark : Obligations.EqualFiltersDecideMark := by
  intro s hcoeff hq1 hq2 h
  rw [decideBit, magValue_unique (magValue_mag .mark s.mark) (magValue_mag .space s.space) hcoeff hq1 hq2 h]
  exact fge_refl h

/-! ### The coefficients of the small configuration -/

/-- A NaN pattern to evaluate closed operations with. -/
def quietNaN : F64 := 0x7FF8000000000000#64

theorem isNaN_quietNaN : isNaN quietNaN = true := by decide

/-- A product evaluated with one NaN pattern has that value with every pattern. -/
theorem fmul_eval {a b r : F64} (h : fmul quietNaN a b = r) (hr : isNaN r = false) (nan : F64) : fmul nan a b = r :=
  (fmul_pattern nan isNaN_quietNaN (h ▸ hr)).trans h

/-- The same of a product divided, the shape of R51 and R52. -/
theorem fdiv_fmul_eval {a b c r : F64} (h : fdiv quietNaN (fmul quietNaN a b) c = r) (hr : isNaN r = false)
    (nan nan' : F64) : fdiv nan' (fmul nan a b) c = r := by
  subst h
  rw [fmul_pattern nan isNaN_quietNaN (operands_not_isNaN fdiv_of_isNaN isNaN_quietNaN hr).1]
  exact fdiv_pattern nan' isNaN_quietNaN hr

theorem eq_of_sameF64 {x y : F64} (h : SameF64 x y) (hy : isNaN y = false) : x = y := by
  rcases h with h | ⟨-, hnan⟩
  · exact h
  · rw [hy] at hnan
    cases hnan

/-- 2.0 * PI64, as DERIVE forms it for every filter. -/
theorem fmul_two_pi64 (nan : F64) : fmul nan 0x4000000000000000#64 0x400921FB54442D18#64 = 0x401921FB54442D18#64 :=
  fmul_eval (by decide +kernel) (by decide) nan

/-- DERIVE where no operation gives a NaN, with the values of COS64 and SIN64 at its omega. -/
theorem values_of_constructed {f : Filter} {n : BitVec 32} {freq rate k omega c sn coeff : F64}
    (h : Constructed f n freq rate)
    (hk : ∀ nan nan', fdiv nan' (fmul nan (u32ToF64 n) freq) rate = k)
    (homega : ∀ nan nan', fdiv nan' (fmul nan 0x401921FB54442D18#64 k) (u32ToF64 n) = omega)
    (htrig : Config.cos64 omega = c ∧ Config.sin64 omega = sn) (hnan : isNaN c = false ∧ isNaN sn = false)
    (hcoeff : ∀ nan, fmul nan 0x4000000000000000#64 c = coeff) :
    f.coeff = coeff ∧ f.cos = c ∧ f.sin = sn ∧ f.k = k ∧ f.kint = truncSatU64 k := by
  obtain ⟨nan, omega', -, hk', homega', hcos, hsin, hcoeff', hkint, -, -⟩ := h
  rw [hk] at hk'
  rw [fmul_two_pi64, hk', homega] at homega'
  rw [homega', htrig.1] at hcos
  rw [homega', htrig.2] at hsin
  rw [eq_of_sameF64 hcos hnan.1, hcoeff] at hcoeff'
  exact ⟨hcoeff', eq_of_sameF64 hcos hnan.1, eq_of_sameF64 hsin hnan.2, hk', hk' ▸ hkint⟩

/-- V-D1: four samples a second, blocks of two, and a tone of four. -/
theorem values_D1_of_constructed (hcr : PCosCr) {f : Filter}
    (h : Constructed f 2#32 0x4010000000000000#64 0x4010000000000000#64) :
    f.coeff = 0x4000000000000000#64 ∧ f.cos = 0x3FF0000000000000#64 ∧ f.sin = 0xBCB1A62633145C07#64 ∧
      f.k = 0x4000000000000000#64 ∧ f.kint = truncSatU64 0x4000000000000000#64 :=
  values_of_constructed h (fdiv_fmul_eval (by decide +kernel) (by decide))
    (fdiv_fmul_eval (by decide +kernel) (by decide))
    (hcr (0x401921FB54442D18#64, 0x3FF0000000000000#64, 0xBCB1A62633145C07#64) (by decide)) (by decide)
    (fmul_eval (by decide +kernel) (by decide))

/-- V-D2: the same with a tone of two. -/
theorem values_D2_of_constructed (hcr : PCosCr) {f : Filter}
    (h : Constructed f 2#32 0x4000000000000000#64 0x4010000000000000#64) :
    f.coeff = 0xC000000000000000#64 ∧ f.cos = 0xBFF0000000000000#64 ∧ f.sin = 0x3CA1A62633145C07#64 ∧
      f.k = 0x3FF0000000000000#64 ∧ f.kint = truncSatU64 0x3FF0000000000000#64 :=
  values_of_constructed h (fdiv_fmul_eval (by decide +kernel) (by decide))
    (fdiv_fmul_eval (by decide +kernel) (by decide))
    (hcr (0x400921FB54442D18#64, 0xBFF0000000000000#64, 0x3CA1A62633145C07#64) (by decide)) (by decide)
    (fmul_eval (by decide +kernel) (by decide))

/-- Settles O26: CONFIGURE constructs the filters of V-D1 and V-D2. -/
theorem smallConfigurationCoefficients : Obligations.SmallConfigurationCoefficients := by
  intro hcr s hstaging
  have hvalid : stagedValid s.staging = true := by rw [hstaging]; decide +kernel
  obtain ⟨t, hexec, hmark, hspace, ht⟩ := configureConstructsBothFilters s hvalid
  rw [hstaging] at hmark hspace
  obtain ⟨hmcoeff, hmcos, hmsin, hmk, hmkint⟩ := values_D1_of_constructed hcr hmark
  obtain ⟨hscoeff, hscos, hssin, hsk, hskint⟩ := values_D2_of_constructed hcr hspace
  have htwo : truncSatU64 0x4000000000000000#64 = 2#64 := by decide +kernel
  have hone : truncSatU64 0x3FF0000000000000#64 = 1#64 := by decide +kernel
  exact ⟨t, hexec, by rw [ht], hmcoeff, hmcos, hmsin, hmk, hmkint.trans htwo,
    hscoeff, hscos, hssin, hsk, hskint.trans hone⟩

/-! ### SAMPLE and END -/

/-- The patterns a filter draws are one family of free patterns. -/
theorem stepValue_step (t : Tone) (f : Filter) (v : F64) : StepValue f v (f.step t v).q1 :=
  ⟨f.nan t, isNaN_filter_nan t f, rfl⟩

theorem magValue_mag_step (t : Tone) (f : Filter) (v : F64) :
    MagValue { f with q1 := (f.step t v).q1, q2 := f.q1 } ((f.step t v).mag t) :=
  magValue_mag t (f.step t v)

/-- Settles O28: inside a block SAMPLE is FEED. -/
theorem sampleFeedsBothFilters : Obligations.SampleFeedsBothFilters := fun s smp hctrl hearly =>
  ⟨_, _, _, exec_sample_within hctrl hearly smp, stepValue_step .mark s.mark _, stepValue_step .space s.space _, rfl⟩

/-- The tenth bit empties the frame register and emits its reading; an earlier bit fills its cell. -/
theorem framePush_asmPush (b : Bool) (s : State) :
    FramePush s.fbits s.fcnt s.charOut b (asmPush b s).fbits (asmPush b s).fcnt (asmPush b s).charOut := by
  unfold FramePush
  by_cases h : s.fcnt = 9#4
  · rw [if_pos h, asmPush_last b s h, ← emitted_setCell_nine]
    exact ⟨rfl, rfl, rfl⟩
  · rw [if_neg h, asmPush_early b s h]
    exact ⟨fun j hj => getLsbD_setCell _ _ j b hj, rfl, rfl⟩

theorem framePush_blockEnd (s : State) : FramePush s.fbits s.fcnt s.charOut (decideBit s)
    (blockEnd s).fbits (blockEnd s).fcnt (blockEnd s).charOut :=
  framePush_asmPush (decideBit s) (closedBlock s)

/-- What BLOCK_END changes beside the frame register and CHAR_OUT. -/
theorem blockEnd_frame (s : State) : blockEnd s = { s with
    mark := s.mark.clear
    space := s.space.clear
    cnt := 0#32
    fullblk := true
    fbits := (blockEnd s).fbits
    fcnt := (blockEnd s).fcnt
    bitOut := s.bitOut ++ [decideBit s]
    charOut := (blockEnd s).charOut } := by
  rw [blockEnd_eq]
  obtain ⟨_, _, _, -, h⟩ := asmPush_eq (decideBit s) (closedBlock s)
  rw [h]
  rfl

/-- Settles O29: at a block's end SAMPLE is FEED and then BLOCK_END, which decides from the stepped filters. -/
theorem sampleEndingABlockPushesItsBit : Obligations.SampleEndingABlockPushesItsBit := by
  intro s smp hctrl hlast
  refine ⟨_, _, _, _, _, exec_sample_ending hctrl hlast smp, stepValue_step .mark s.mark _,
    stepValue_step .space s.space _, magValue_mag_step .mark s.mark _, magValue_mag_step .space s.space _,
    framePush_blockEnd (feed (i16ToF64 smp) s), ?_⟩
  rw [blockEnd_mark, blockEnd_space]
  exact blockEnd_frame (feed (i16ToF64 smp) s)

/-! The three branches of FLUSH_BLOCK (R65). -/

theorem flushBlock_of_empty {s : State} (hcnt : s.cnt = 0#32) : flushBlock s = { s with fullblk := false } := by
  rw [flushBlock, if_pos hcnt]

theorem flushBlock_of_full {s : State} (hcnt : s.cnt ≠ 0#32) (hfull : s.fullblk = true) :
    flushBlock s = { blockEnd s with fullblk := false } := by
  rw [flushBlock, if_neg hcnt, if_pos hfull]

theorem flushBlock_of_short {s : State} (hcnt : s.cnt ≠ 0#32) (hshort : s.fullblk = false) :
    flushBlock s = { clearFilters s with cnt := 0#32, fullblk := false } := by
  rw [flushBlock, if_neg hcnt, if_neg (ne_true_of_eq_false hshort)]

/-- Settles O31: FLUSH_BLOCK's two branches without a bit, then the frame register is discarded. -/
theorem endWithoutAPartialBit : Obligations.EndWithoutAPartialBit := by
  intro s hctrl
  rw [exec_endRun_configured hctrl]
  refine ⟨fun hcnt => ?empty, fun hcnt hshort => ?short⟩
  case empty => rw [flushBlock_of_empty hcnt]; rfl
  case short => rw [flushBlock_of_short hcnt hshort, ← hshort]; rfl

/-- Settles O32: FLUSH_BLOCK ends the block, and its bit enters the frame register before that is discarded. -/
theorem endDecidesAPartialBlock : Obligations.EndDecidesAPartialBlock := by
  intro s hctrl hcnt hfull
  have hexec := exec_endRun_configured hctrl
  rw [flushBlock_of_full hcnt hfull] at hexec
  refine ⟨_, _, _, _, _, hexec, magValue_mag .mark s.mark, magValue_mag .space s.space, framePush_blockEnd s, ?_⟩
  rw [blockEnd_frame s]
  rfl

end Sys2Proof.Machine
end

section
/-! Proofs of the family 60_exceptions.md: which check decides a command's error code (R87, R90), how long ERR holds it
(R89), and idling (R99). The checks of R90 read a word's fields; they are tied to the decoded command's constructor
once, and each effect of a command is then either a rejection by those checks or an acceptance. -/

namespace Sys2Proof.Machine

open Sys2Proof.Claims Sys2Proof.Laws

/-! ### The checks of R90, read off a command's constructor -/

/-- The checks of R90 after the reserved bits: control state, staged values, selector. No command has two of them. -/
def stateCheck (s : State) : Instr → Option ErrCode
  | .sample _ _ | .endRun _ => if s.ctrl = .configured then none else some .notConfigured
  | .configure _ => if validConfig s.staging = true then none else some .badConfig
  | .read sel _ => if readTarget sel = none then some .badSelect else none
  | .nop _ | .clearErr _ | .wrRate _ | .wrN _ _ | .wrMarkf _ | .wrSpacef _ => none

theorem legalOpcode_of_decode {w : CommandWord} {i : Instr} (h : decode w = .instr i) :
    legalOpcode (opcodeOf i) = true := by
  rw [← (fields_of_decode h).1, ← Bool.not_eq_false, ← decode_eq_illegalOpcode_iff, h]
  simp

/-- READ's opcodes of the unassigned selectors are those the register map leaves open (R26). -/
theorem unassignedRead_opcodeOf_read (sel : BitVec 6) (data : BitVec 64) :
    unassignedRead (opcodeOf (.read sel data)) = true ↔ readTarget sel = none := by
  have hmap : ∀ sel : BitVec 6, unassignedRead (0x40#8 + sel.setWidth 8) = true ↔ readTarget sel = none := by decide
  exact hmap sel

/-- A READ's opcode is none of the other opcodes. -/
theorem opcodeOf_read_ne (sel : BitVec 6) (data : BitVec 64) {opc : BitVec 8} (h : readOpcode opc = false) :
    opcodeOf (.read sel data) ≠ opc := by
  rintro rfl
  exact ne_true_of_eq_false h ((readOpcode_opcodeOf _).2 ⟨sel, data, rfl⟩)

/-- The checks after the reserved bits, by opcode as in R90 and by constructor. -/
theorem stateCheck_eq (s : State) (i : Instr) :
    (if (opcodeOf i = 0x01#8 ∨ opcodeOf i = 0x02#8) ∧ s.ctrl ≠ .configured then some .notConfigured
      else if opcodeOf i = 0x03#8 ∧ stagedValid s.staging = false then some .badConfig
      else if unassignedRead (opcodeOf i) = true then some .badSelect
      else none) = stateCheck s i := by
  rw [stagedValid_eq_validConfig]
  cases i with
  | read sel data =>
    have h1 : opcodeOf (.read sel data) ≠ 0x01#8 := opcodeOf_read_ne sel data rfl
    have h2 : opcodeOf (.read sel data) ≠ 0x02#8 := opcodeOf_read_ne sel data rfl
    have h3 : opcodeOf (.read sel data) ≠ 0x03#8 := opcodeOf_read_ne sel data rfl
    simp [stateCheck, unassignedRead_opcodeOf_read, h1, h2, h3]
  | sample | endRun => by_cases h : s.ctrl = .configured <;> simp [stateCheck, opcodeOf, unassignedRead, h]
  | configure => cases h : validConfig s.staging <;> simp [stateCheck, opcodeOf, unassignedRead, h]
  | _ => simp [stateCheck, opcodeOf, unassignedRead]

/-- A decoded command has passed the opcode check; its reserved bits come next, then the checks of its own. -/
theorem failedCheck_of_decode (s : State) {w : CommandWord} {i : Instr} (h : decode w = .instr i) :
    failedCheck s w = if i.wellFormed = true then stateCheck s i else some .reservedNonzero := by
  obtain ⟨hopc, hdata⟩ : w.extractLsb' 64 8 = opcodeOf i ∧ w.extractLsb' 0 64 = dataOf i := fields_of_decode h
  simp only [failedCheck, hopc, hdata, legalOpcode_of_decode h, stateCheck_eq, wellFormed_iff_reservedMask, ite_not,
    Bool.true_eq_false, if_false]

theorem failedCheck_of_illegal (s : State) {w : CommandWord} (h : decode w = .illegalOpcode) :
    failedCheck s w = some .illegalOpcode :=
  if_pos ((decode_eq_illegalOpcode_iff w).1 h)

theorem readOpcode_of_illegal {w : CommandWord} (h : decode w = .illegalOpcode) : readOpcode (opcField w) = false :=
  (Bool.or_eq_false_iff.1 ((decode_eq_illegalOpcode_iff w).1 h)).2

/-! ### What a command does by the outcome of its checks -/

/-- The one effect of a command that fails a check of its own: the code, CFG_ERROR for BAD_CONFIG, and a READ's one
response word. -/
theorem Effect.eq_of_stateCheck {s t : State} {i : Instr} {c : ErrCode} (h : Effect s i t)
    (hgood : i.wellFormed = true) (hc : stateCheck s i = some c) :
    t = { s with
      err := c
      ctrl := if c = .badConfig then .cfgError else s.ctrl
      respOut := if readOpcode (opcodeOf i) = true then s.respOut ++ [0#64] else s.respOut } := by
  cases h with
  | reserved _ _ hbad => exact absurd hgood (ne_true_of_eq_false hbad)
  | readReserved sel data hdata => exact absurd (eq_of_beq hgood) hdata
  | sampleRefused smp hctrl | endRefused hctrl =>
    obtain rfl : .notConfigured = c := by simpa [stateCheck, hctrl] using hc
    rfl
  | configureRefused hinvalid =>
    obtain rfl : .badConfig = c := by simpa [stateCheck, hinvalid] using hc
    rfl
  | readUnassigned sel hsel =>
    obtain rfl : .badSelect = c := by simpa [stateCheck, hsel] using hc
    rw [if_pos ((readOpcode_opcodeOf _).2 ⟨sel, 0#64, rfl⟩)]
    rfl
  | sampleWithinBlock _ hctrl | sampleEndingBlock _ hctrl | endRun hctrl => simp [stateCheck, hctrl] at hc
  | configure hvalid => simp [stateCheck, hvalid] at hc
  | read sel r hsel => simp [stateCheck, hsel] at hc
  | unchanged | clearErr | wrRate | wrN | wrMarkf | wrSpacef => cases hc

@[simp] theorem spendRead_err (s : State) (r : ReadTarget) : (spendRead s r).err = s.err := by
  obtain ⟨_, _, h⟩ := spendRead_eq s r; simp [h]

/-- A command that fails no check keeps ERR, unless it is CLEAR_ERR. -/
theorem Effect.err_of_passed {s t : State} {i : Instr} (h : Effect s i t) (hgood : i.wellFormed = true)
    (hpass : stateCheck s i = none) : t.err = if opcodeOf i = 0x04#8 then .noError else s.err := by
  cases h with
  | reserved _ _ hbad => exact absurd hgood (ne_true_of_eq_false hbad)
  | readReserved sel data hdata => exact absurd (eq_of_beq hgood) hdata
  | sampleRefused smp hctrl | endRefused hctrl => simp [stateCheck, hctrl] at hpass
  | configureRefused hinvalid => simp [stateCheck, hinvalid] at hpass
  | readUnassigned sel hsel => simp [stateCheck, hsel] at hpass
  | read sel r => simp [opcodeOf_read_ne sel 0#64 (opc := 0x04#8) rfl]
  | _ => simp [opcodeOf]

/-! ### The host's words -/

/-- Settles O13: an illegal word fails the first check, a command with a reserved bit set the second, and any other
command the one check of its own. -/
theorem firstFailedCheckDecides : Obligations.FirstFailedCheckDecides := by
  intro s w rest c hin hfail
  cases hd : decode w with
  | illegalOpcode =>
    obtain rfl : .illegalOpcode = c := Option.some.inj ((failedCheck_of_illegal s hd).symm.trans hfail)
    have hread : readOpcode (w.extractLsb' 64 8) = false := readOpcode_of_illegal hd
    rw [step_illegal hin hd, hread]
    rfl
  | instr i =>
    obtain ⟨t, hexec, heffect⟩ := exec_effect i (s.taken rest)
    have hopc : w.extractLsb' 64 8 = opcodeOf i := (fields_of_decode hd).1
    rw [step_instr hin hd, hexec, hopc]
    rw [failedCheck_of_decode s hd] at hfail
    cases hwf : i.wellFormed with
    | false =>
      obtain rfl : .reservedNonzero = c := by simpa [hwf] using hfail
      rw [heffect.eq_of_illFormed hwf]
      rfl
    | true =>
      rw [heffect.eq_of_stateCheck hwf ((if_pos hwf).symm.trans hfail)]
      rfl

/-- A word that fails no check is a command, and that command keeps ERR or is CLEAR_ERR. -/
theorem step_passed_err {s t : State} {w : CommandWord} {rest : List HostInput} (hin : s.inbox = .command w :: rest)
    (h : step s = .next t) (hpass : failedCheck s w = none) :
    t.err = if opcField w = 0x04#8 then .noError else s.err := by
  cases hd : decode w with
  | illegalOpcode => cases (failedCheck_of_illegal s hd).symm.trans hpass
  | instr i =>
    rw [failedCheck_of_decode s hd] at hpass
    rw [step_instr hin hd] at h
    cases hwf : i.wellFormed with
    | false => simp [hwf] at hpass
    | true =>
      rw [(fields_of_decode hd).1]
      exact (effect_of_exec h).err_of_passed hwf ((if_pos hwf).symm.trans hpass)

/-- Settles O14: a failed check writes its code whatever ERR held, by the rejection's exact effects; the other steps
keep ERR or clear it. -/
theorem errIsStickyUntilCleared : Obligations.ErrIsStickyUntilCleared := by
  refine fun s t h => ⟨fun hin => ?idle, fun rest hin => ?reset, fun w rest hin =>
    ⟨fun c hfail => ?failed, step_passed_err hin h⟩⟩
  case idle => rw [step_idle hin] at h; cases h; rfl
  case reset => rw [step_reset hin] at h; cases h; rfl
  case failed => rw [firstFailedCheckDecides s w rest c hin hfail] at h; cases h; rfl

/-- Settles O7: with no input to take a step is `idle`. -/
theorem idleHoldsTheState : Obligations.IdleHoldsTheState := fun _ => step_idle

end Sys2Proof.Machine
end

section
/-! Proofs of the family 30_encoding.md, continued: the decoder and the encoder are inverse to each other (R44, R47),
and words written out from the tables. -/

namespace Sys2Proof.Machine

open Sys2Proof.Claims Sys2Proof.Laws

/-- The encoder puts the opcode and DATA of R44 and R39 together. -/
theorem wordFields_statement : ∀ i : Instr, WordFields.Statement i
  | .nop data => WordFields.nop data
  | .sample rsv smp => WordFields.sample rsv smp
  | .endRun data => WordFields.endRun data
  | .configure data => WordFields.configure data
  | .clearErr data => WordFields.clearErr data
  | .wrRate fv => WordFields.wrRate fv
  | .wrN rsv val => WordFields.wrN rsv val
  | .wrMarkf fv => WordFields.wrMarkf fv
  | .wrSpacef fv => WordFields.wrSpacef fv
  | .read sel data => WordFields.read sel data

/-- Settles O2: the word and the command's encoding have the same two fields. -/
theorem encodeOfDecodeIsTheWord : Obligations.EncodeOfDecodeIsTheWord := by
  intro w i hd
  obtain ⟨hopc, hdata⟩ := fields_of_decode hd
  obtain ⟨hopc', hdata'⟩ := wordFields_statement i
  rw [← mkWord_fields w, ← mkWord_fields (encode i), hopc, hdata, hopc', hdata']

/-- The decoder finds the constructor by the opcode, and the operands in the fields they were put in. -/
theorem decode_encode (i : Instr) : decode (encode i) = .instr i := by
  cases i with
  | read sel data =>
    have hne : ∀ opc : BitVec 8, readOpcode opc = false → (0b01#2 ++ sel : BitVec 8) ≠ opc := fun opc h =>
      read_prefix_append_eq_opcodeOf sel data ▸ opcodeOf_read_ne sel data h
    simp only [decode, encode, opcField_mkWord, dataField_mkWord, read_prefix, read_selector, if_true]
    repeat rw [if_neg (hne _ rfl)]
  | _ => simp [decode, encode]

/-- Settles O1: `decode_encode`, and the table's numbering of a 72-bit word is the word's own. -/
theorem decodeOfEncodeIsTheCommand : Obligations.DecodeOfEncodeIsTheCommand := fun i =>
  ⟨decode_encode i, fun hwf => by simp only [decodeTableWord, tableWord_toNat, decode_encode, hwf, if_true]⟩

/-- Settles O4: closed words, so the decoder is evaluated on each. -/
theorem writtenOutWordsDecode : Obligations.WrittenOutWordsDecode := by
  unfold Obligations.WrittenOutWordsDecode
  decide

end Sys2Proof.Machine
end

section
/-! Proofs of the family 30_encoding.md, section 4: what the assembler makes of a text (R48, R49). -/

namespace Sys2Proof.Machine.Asm

/-! ### A partial function over a list: it answers when it does so at every element -/

/-- Every answer of `mapM` is the answer at some element. -/
theorem exists_of_mem_mapM {α β : Type} {f : α → Option β} {l : List α} {r : List β} (h : l.mapM f = some r) :
    ∀ b ∈ r, ∃ a ∈ l, f a = some b := by
  induction l generalizing r with
  | nil => cases h; simp
  | cons a l ih =>
    simp only [List.mapM_cons, Option.bind_eq_bind, Option.bind_eq_some_iff, Option.pure_def, Option.some.injEq] at h
    obtain ⟨b, hb, bs, hbs, rfl⟩ := h
    exact List.forall_mem_cons.2 ⟨⟨a, List.mem_cons_self, hb⟩, fun c hc =>
      (ih hbs c hc).imp fun _ ⟨hmem, hval⟩ => ⟨List.mem_cons_of_mem a hmem, hval⟩⟩

theorem mapM_eq_some_map {α β : Type} {f : α → Option β} {g : α → β} {l : List α} (h : ∀ a ∈ l, f a = some (g a)) :
    l.mapM f = some (l.map g) := by
  induction l with
  | nil => rfl
  | cons a l ih =>
    obtain ⟨ha, hl⟩ := List.forall_mem_cons.1 h
    simp [List.mapM_cons, ha, ih hl]

theorem mapM_eq_none_of_mem {α β : Type} {f : α → Option β} {l : List α} {a : α} (hmem : a ∈ l) (h : f a = none) :
    l.mapM f = none := by
  induction l with
  | nil => cases hmem
  | cons c l ih =>
    rcases List.mem_cons.1 hmem with rfl | hmem
    · simp [List.mapM_cons, h]
    · simp [List.mapM_cons, ih hmem]

/-! ### The commands with a numeric operand: their ranges, and their operand in binary -/

/-- The 16 bits of an integer are its value mod 2^16 (R48). -/
theorem ofInt_eq_ofNat_emod (v : Int) : BitVec.ofInt 16 v = BitVec.ofNat 16 (v % 2 ^ 16).toNat := by
  rw [← BitVec.ofInt_natCast, Int.toNat_of_nonneg (Int.emod_nonneg v (by decide))]
  apply BitVec.eq_of_toInt_eq
  rw [BitVec.toInt_ofInt, BitVec.toInt_ofInt]
  exact (Int.emod_bmod v (2 ^ 16)).symm

theorem sampleInstr_of_inRange {v : Int} (h : -32768 ≤ v ∧ v ≤ 32767) :
    sampleInstr v = some (.sample 0#48 (BitVec.ofNat 16 (v % 2 ^ 16).toNat)) := by
  rw [sampleInstr, if_pos h, ofInt_eq_ofNat_emod]

theorem sampleInstr_of_outOfRange {v : Int} (h : ¬(-32768 ≤ v ∧ v ≤ 32767)) : sampleInstr v = none := if_neg h

theorem wrNInstr_of_inRange {n : Nat} (h : n < 2 ^ 32) : wrNInstr n = some (.wrN 0#32 (BitVec.ofNat 32 n)) := if_pos h

theorem wrNInstr_of_outOfRange {n : Nat} (h : ¬n < 2 ^ 32) : wrNInstr n = none := if_neg h

theorem readInstr_of_inRange {sel : Nat} (h : sel < 64) :
    readInstr sel = some (.read (BitVec.ofNat 6 sel) 0#64) := if_pos h

/-! ### Every command the assembler makes has zero reserved bits -/

theorem sampleInstr_wellFormed {v : Int} {i : Instr} (h : sampleInstr v = some i) : i.wellFormed = true := by
  obtain ⟨-, ⟨⟩⟩ := Option.ite_none_right_eq_some.1 h
  rfl

theorem wrNInstr_wellFormed {n : Nat} {i : Instr} (h : wrNInstr n = some i) : i.wellFormed = true := by
  obtain ⟨-, ⟨⟩⟩ := Option.ite_none_right_eq_some.1 h
  rfl

theorem readInstr_wellFormed {sel : Nat} {i : Instr} (h : readInstr sel = some i) : i.wellFormed = true := by
  obtain ⟨-, ⟨⟩⟩ := Option.ite_none_right_eq_some.1 h
  rfl

theorem expand_wellFormed {line : Line} {is : List Instr} (h : expand line = some is) :
    ∀ i ∈ is, i.wellFormed = true := by
  cases line with
  | sample v =>
    obtain ⟨i, hi, rfl⟩ := Option.map_eq_some_iff.1 h
    exact List.forall_mem_singleton.2 (sampleInstr_wellFormed hi)
  | wrN n =>
    obtain ⟨i, hi, rfl⟩ := Option.map_eq_some_iff.1 h
    exact List.forall_mem_singleton.2 (wrNInstr_wellFormed hi)
  | read sel =>
    obtain ⟨i, hi, rfl⟩ := Option.map_eq_some_iff.1 h
    exact List.forall_mem_singleton.2 (readInstr_wellFormed hi)
  | cfg rate n mark space =>
    obtain ⟨i, hi, rfl⟩ := Option.map_eq_some_iff.1 h
    simp only [List.forall_mem_cons]
    exact ⟨rfl, wrNInstr_wellFormed hi, rfl, rfl, rfl, nofun⟩
  | samples vs =>
    intro i hi
    obtain ⟨v, -, hv⟩ := exists_of_mem_mapM h i hi
    exact sampleInstr_wellFormed hv
  | _ =>
    cases h
    simp [Instr.wellFormed]

/-- A line's commands are those of its statement; an empty line has none. -/
theorem assembleLine_wellFormed {cs : List Char} {is : List Instr} (h : assembleLine cs = some is) :
    ∀ i ∈ is, i.wellFormed = true := by
  unfold assembleLine at h
  simp only at h
  split at h
  · cases h; simp
  · obtain ⟨line, -, hexpand⟩ := Option.bind_eq_some_iff.1 h
    exact expand_wellFormed hexpand

/-- Settles O57: a word is the encoding of a command of some line, so it decodes to that command. -/
theorem assembledWordsAreCommands : Obligations.AssembledWordsAreCommands := by
  intro text ws h w hw
  obtain ⟨lines, hlines, rfl⟩ := Option.map_eq_some_iff.1 h
  obtain ⟨i, hi, rfl⟩ := List.mem_map.1 hw
  obtain ⟨is, his, hmem⟩ := List.mem_flatten.1 hi
  obtain ⟨cs, -, hcs⟩ := exists_of_mem_mapM hlines is his
  exact ⟨i, decode_encode i, assembleLine_wellFormed hcs i hmem⟩

/-! ### What the statements and the pseudo-instructions expand to -/

/-- Settles O58: a statement with an operand answers exactly in the operand's range, and the expansions follow from
those of its commands. -/
theorem assemblerExpansions : Obligations.AssemblerExpansions := by
  refine ⟨fun v => ?_, fun v hlo hhi => ?_, fun n => ?_, fun n hn => ?_, fun sel => ?_, fun sel hsel => ?_,
    fun rate mark space n => ⟨fun hn => ?_, fun hn => ?_⟩, by decide +kernel, by decide +kernel,
    fun vs hvs => mapM_eq_some_map fun v hv => sampleInstr_of_inRange (hvs v hv),
    fun vs ⟨v, hv, hout⟩ => mapM_eq_none_of_mem hv (sampleInstr_of_outOfRange hout), rfl⟩
  · simp [expand, sampleInstr]
  · rw [expand, sampleInstr_of_inRange ⟨hlo, hhi⟩]; rfl
  · simp [expand, wrNInstr]
  · rw [expand, wrNInstr_of_inRange hn]; rfl
  · simp [expand, readInstr, Nat.lt_succ_iff]
  · rw [expand, readInstr_of_inRange (by omega)]; rfl
  · rw [expand, wrNInstr_of_inRange hn]; rfl
  · rw [expand, wrNInstr_of_outOfRange (by omega)]; rfl

end Sys2Proof.Machine.Asm
end

section
/-! Proofs of the families 10_state.md, 20_memory.md and 60_exceptions.md about one step: its order (R34), that it
never stops (R87), and the invariants it keeps (R27). -/

namespace Sys2Proof.Machine

open Sys2Proof.Claims

/-! ### One input, one next state -/

/-- Settles O6: the decoded command runs on the state with its word taken. -/
theorem stepRunsTheDecodedCommand : Obligations.StepRunsTheDecodedCommand := fun _ _ _ _ hin hd => step_instr hin hd

/-- Settles O10: idle, the reset event and an illegal word answer outright, and a command by one of its effects. -/
theorem everyStepGoesOn : Obligations.EveryStepGoesOn := by
  intro s
  rcases hin : s.inbox with _ | ⟨w | _, rest⟩
  · exact ⟨_, step_idle hin⟩
  · cases hd : decode w with
    | instr i =>
      obtain ⟨t, hexec, -⟩ := exec_effect i (s.taken rest)
      exact ⟨t, (step_instr hin hd).trans hexec⟩
    | illegalOpcode => exact ⟨_, step_illegal hin hd⟩
  · exact ⟨_, step_reset hin⟩

@[simp] theorem flushBlock_inbox (s : State) : (flushBlock s).inbox = s.inbox := by
  rcases flushBlock_cases s with ⟨-, h⟩ | ⟨-, -, h⟩ | ⟨-, -, h⟩ <;> simp [h]

@[simp] theorem spendRead_inbox (s : State) (r : ReadTarget) : (spendRead s r).inbox = s.inbox := by
  obtain ⟨_, _, h⟩ := spendRead_eq s r; simp [h]

/-- No command takes a further input. -/
theorem Effect.inbox_eq {s t : State} {i : Instr} (h : Effect s i t) : t.inbox = s.inbox := by
  cases h <;> simp

/-- Settles O9: the input is taken before the command runs, and the command takes none. -/
theorem stepTakesOneInputInOrder : Obligations.StepTakesOneInputInOrder := by
  intro s t h
  rcases step_cases h with ⟨hin, rfl⟩ | ⟨rest, hin, rfl⟩ | ⟨w, rest, i, hin, -, heffect⟩ | ⟨w, rest, hin, -, rfl⟩
  · rw [hin]; rfl
  · rw [hin]; rfl
  · rw [hin, heffect.inbox_eq]; rfl
  · rw [hin]; rfl

/-! ### The invariants: what they do not read -/

theorem CtrlState.code_le_two : ∀ c : CtrlState, c.code.toNat ≤ 2
  | .unconfigured | .configured | .cfgError => by decide

/-- The registers R27 speaks of are the same, except that STATE may have moved to CFG_ERROR. -/
structure SameRun (s t : State) : Prop where
  ctrl : t.ctrl = s.ctrl ∨ t.ctrl = .cfgError
  n : t.active.n = s.active.n
  cnt : t.cnt = s.cnt
  fullblk : t.fullblk = s.fullblk
  fbits : t.fbits = s.fbits
  fcnt : t.fcnt = s.fcnt
  mark : t.mark.q1 = s.mark.q1 ∧ t.mark.q2 = s.mark.q2
  space : t.space.q1 = s.space.q1 ∧ t.space.q2 = s.space.q2

/-- In CFG_ERROR R27 asks nothing that it does not ask in every control state. -/
theorem State.Inv.of_sameRun {s t : State} (hinv : s.Inv) (h : SameRun s t) : t.Inv where
  control := t.ctrl.code_le_two
  block hc := by
    rcases h.ctrl with hs | he
    · rw [h.n, h.cnt]
      exact hinv.block (hs ▸ hc)
    · cases he.symm.trans hc
  frameCount := by
    rw [h.fcnt]
    exact hinv.frameCount
  frameCells := by
    rw [h.fcnt, h.fbits]
    exact hinv.frameCells
  accumulators := by
    rw [h.cnt, h.mark.1, h.mark.2, h.space.1, h.space.2]
    exact hinv.accumulators
  beforeConfigure hu := by
    rcases h.ctrl with hs | he
    · rw [h.cnt, h.fullblk, h.fcnt]
      exact hinv.beforeConfigure (hs ▸ hu)
    · cases he.symm.trans hu

theorem sameRun_reject (c : ErrCode) (s : State) : SameRun s (reject c s) :=
  ⟨by rw [reject_ctrl]; split <;> simp, rfl, rfl, rfl, rfl, rfl, ⟨rfl, rfl⟩, ⟨rfl, rfl⟩⟩

theorem sameRun_rejectRead (c : ErrCode) (s : State) : SameRun s (rejectRead c s) :=
  ⟨by rw [rejectRead_ctrl]; split <;> simp, rfl, rfl, rfl, rfl, rfl, ⟨rfl, rfl⟩, ⟨rfl, rfl⟩⟩

theorem sameRun_read (v : BitVec 64) (s : State) (r : ReadTarget) : SameRun s (emitResp v (spendRead s r)) := by
  obtain ⟨dM, dS, h⟩ := spendRead_eq s r
  rw [h]
  exact ⟨.inl rfl, rfl, rfl, rfl, rfl, rfl, ⟨rfl, rfl⟩, ⟨rfl, rfl⟩⟩

/-! ### The frame register -/

/-- The two invariants of the frame register (R22, R27). -/
structure State.FrameInv (s : State) : Prop where
  count : s.fcnt.toNat ≤ 9
  cells : ∀ j, s.fcnt.toNat ≤ j → s.fbits.getLsbD j = false

theorem frameInv_of_empty {s : State} (hcnt : s.fcnt = 0#4) (hbits : s.fbits = 0#10) : s.FrameInv :=
  ⟨by rw [hcnt]; decide, fun j _ => by rw [hbits, BitVec.getLsbD_zero]⟩

/-- ASM_PUSH empties the frame register at the tenth bit; before it, it fills the first free cell. -/
theorem State.FrameInv.asmPush {s : State} (h : s.FrameInv) (b : Bool) : (asmPush b s).FrameInv := by
  by_cases h9 : s.fcnt = 9#4
  · rw [asmPush_last b s h9]
    exact frameInv_of_empty rfl rfl
  · have hcount := h.count
    have hfcnt : (s.fcnt + 1#4).toNat = s.fcnt.toNat + 1 := by bv_omega
    rw [asmPush_early b s h9]
    refine ⟨by rw [hfcnt]; bv_omega, fun j hj => ?_⟩
    rw [hfcnt] at hj
    rcases Nat.lt_or_ge j 10 with hlt | hge
    · rw [getLsbD_setCell _ _ _ _ hlt, if_neg (by omega)]
      exact h.cells j (by omega)
    · exact BitVec.getLsbD_of_ge _ _ hge

theorem State.FrameInv.blockEnd {s : State} (h : s.FrameInv) : (blockEnd s).FrameInv :=
  State.FrameInv.asmPush (s := closedBlock s) ⟨h.count, h.cells⟩ (decideBit s)

/-! ### The run: within a block, and with none begun -/

/-- With CNT = 0 the counter is in range for every configured N, and the accumulators are clear. -/
theorem State.Inv.of_cnt_zero {s : State} (hctrl : s.ctrl = .configured) (hn : 1 ≤ s.active.n.toNat)
    (hcnt : s.cnt = 0#32) (hframe : s.FrameInv)
    (hacc : s.mark.q1 = posZero ∧ s.mark.q2 = posZero ∧ s.space.q1 = posZero ∧ s.space.q2 = posZero) : s.Inv where
  control := s.ctrl.code_le_two
  block _ := ⟨hn, by rw [hcnt]; exact hn⟩
  frameCount := hframe.count
  frameCells := hframe.cells
  accumulators _ := hacc
  beforeConfigure hu := nomatch hctrl.symm.trans hu

/-- FEED short of the block's end counts one sample, and CNT stays below N. -/
theorem State.Inv.feed {s : State} (hinv : s.Inv) (hctrl : s.ctrl = .configured) (hearly : s.cnt + 1#32 ≠ s.active.n)
    (v : F64) : (feed v s).Inv := by
  obtain ⟨hn, hlt⟩ := hinv.block hctrl
  have hcnt : (s.cnt + 1#32).toNat = s.cnt.toNat + 1 := by bv_omega
  refine ⟨hinv.control, fun _ => ⟨hn, ?_⟩, hinv.frameCount, hinv.frameCells, fun h0 => ?_,
    fun hu => nomatch hctrl.symm.trans hu⟩
  · rw [feed_cnt, feed_active, hcnt]
    bv_omega
  · rw [feed_cnt] at h0
    rw [h0] at hcnt
    cases hcnt

/-- BLOCK_END leaves CNT at 0 and both filters reset. -/
theorem State.Inv.blockEnd {s : State} (hctrl : s.ctrl = .configured) (hn : 1 ≤ s.active.n.toNat)
    (hframe : s.FrameInv) : (blockEnd s).Inv :=
  .of_cnt_zero (by rw [blockEnd_ctrl, hctrl]) (by rw [blockEnd_active]; exact hn) (blockEnd_cnt s) hframe.blockEnd
    (by simp)

@[simp] theorem flushBlock_active (s : State) : (flushBlock s).active = s.active := by
  rcases flushBlock_cases s with ⟨-, h⟩ | ⟨-, -, h⟩ | ⟨-, -, h⟩ <;> simp [h]

theorem flushBlock_cnt (s : State) : (flushBlock s).cnt = 0#32 := by
  rcases flushBlock_cases s with ⟨hcnt, h⟩ | ⟨-, -, h⟩ | ⟨-, -, h⟩
  · simp [h, hcnt]
  · simp [h]
  · simp [h]

/-- FLUSH_BLOCK finds the accumulators clear, or clears them. -/
theorem State.Inv.flushBlock_accumulators {s : State} (hinv : s.Inv) :
    (flushBlock s).mark.q1 = posZero ∧ (flushBlock s).mark.q2 = posZero ∧
      (flushBlock s).space.q1 = posZero ∧ (flushBlock s).space.q2 = posZero := by
  rcases flushBlock_cases s with ⟨hcnt, h⟩ | ⟨-, -, h⟩ | ⟨-, -, h⟩
  · rw [h]
    exact hinv.accumulators hcnt
  · simp [h]
  · simp [h]

theorem State.Inv.endRun {s : State} (hinv : s.Inv) (hctrl : s.ctrl = .configured) :
    (frameDiscard (flushBlock s)).Inv :=
  .of_cnt_zero (by rw [frameDiscard_ctrl, flushBlock_ctrl, hctrl])
    (by rw [frameDiscard_active, flushBlock_active]; exact (hinv.block hctrl).1) (flushBlock_cnt s)
    (frameInv_of_empty rfl rfl) hinv.flushBlock_accumulators

/-- CONFIGURE's validation asks for N >= 1, and a fresh run has nothing pending. -/
theorem inv_construct {s : State} (hvalid : validConfig s.staging = true) : (construct s).Inv := by
  rw [← stagedValid_eq_validConfig] at hvalid
  simp only [stagedValid, Bool.and_eq_true, decide_eq_true_eq] at hvalid
  exact .of_cnt_zero rfl hvalid.1.1.1 rfl (frameInv_of_empty rfl rfl) ⟨rfl, rfl, rfl, rfl⟩

/-! ### Every command, every step -/

/-- Every effect of a command keeps the invariants: most do not touch what they speak of, and SAMPLE, END and
CONFIGURE have a lemma each. -/
theorem Effect.inv {s t : State} {i : Instr} (h : Effect s i t) (hinv : s.Inv) : t.Inv := by
  cases h with
  | unchanged => exact hinv
  | reserved | sampleRefused | endRefused | configureRefused => exact hinv.of_sameRun (sameRun_reject _ s)
  | readReserved | readUnassigned => exact hinv.of_sameRun (sameRun_rejectRead _ s)
  | read _ r => exact hinv.of_sameRun (sameRun_read _ s r)
  | clearErr | wrRate | wrN | wrMarkf | wrSpacef =>
    exact hinv.of_sameRun ⟨.inl rfl, rfl, rfl, rfl, rfl, rfl, ⟨rfl, rfl⟩, ⟨rfl, rfl⟩⟩
  | sampleWithinBlock _ hctrl hearly => exact hinv.feed hctrl hearly _
  | sampleEndingBlock _ hctrl => exact .blockEnd hctrl (hinv.block hctrl).1 ⟨hinv.frameCount, hinv.frameCells⟩
  | endRun hctrl => exact hinv.endRun hctrl
  | configure hvalid => exact inv_construct hvalid

/-- Settles O16: after reset nothing is configured and nothing is pending. -/
theorem invariantsHoldAtReset : Obligations.InvariantsHoldAtReset where
  control := by decide
  block h := nomatch h
  frameCount := by decide
  frameCells j _ := BitVec.getLsbD_zero
  accumulators _ := ⟨rfl, rfl, rfl, rfl⟩
  beforeConfigure _ := ⟨rfl, rfl, rfl⟩

theorem State.Inv.taken {s : State} (hinv : s.Inv) (rest : List HostInput) : (s.taken rest).Inv :=
  hinv.of_sameRun ⟨.inl rfl, rfl, rfl, rfl, rfl, rfl, ⟨rfl, rfl⟩, ⟨rfl, rfl⟩⟩

theorem inv_applyReset (s : State) : (applyReset s).Inv :=
  invariantsHoldAtReset.of_sameRun ⟨.inl rfl, rfl, rfl, rfl, rfl, rfl, ⟨rfl, rfl⟩, ⟨rfl, rfl⟩⟩

/-- Settles O17: by what a step can do. -/
theorem everyStepKeepsTheInvariants : Obligations.EveryStepKeepsTheInvariants := by
  intro s t hinv h
  rcases step_cases h with ⟨-, rfl⟩ | ⟨rest, -, rfl⟩ | ⟨w, rest, i, -, -, heffect⟩ | ⟨w, rest, -, -, rfl⟩
  · exact hinv
  · exact inv_applyReset _
  · exact heffect.inv (hinv.taken rest)
  · exact (hinv.taken rest).of_sameRun (sameRun_reject _ _)

end Sys2Proof.Machine
end

section
/-! Proofs of the families 10_state.md, 43_commands.md and 70_reset_and_hazards.md about what a step leaves alone: the
channels (R23), the configuration (R17, R18), the staging registers (R16, R105), and the decode path (R54, R59). -/

namespace Sys2Proof.Machine

open Sys2Proof.Claims Sys2Proof.Laws

/-! ### The channels -/

/-- At most one item is appended to each channel, a character only beside a bit. -/
def ChannelsGrow (s t : State) : Prop :=
  ∃ bits chars resps, t.bitOut = s.bitOut ++ bits ∧ t.charOut = s.charOut ++ chars ∧
    t.respOut = s.respOut ++ resps ∧ bits.length ≤ 1 ∧ chars.length ≤ bits.length ∧ resps.length ≤ 1

theorem channelsGrow_none {s t : State} (hbit : t.bitOut = s.bitOut) (hchar : t.charOut = s.charOut)
    (hresp : t.respOut = s.respOut) : ChannelsGrow s t :=
  ⟨[], [], [], by simp [hbit], by simp [hchar], by simp [hresp], by simp, by simp, by simp⟩

theorem channelsGrow_resp {s t : State} {v : BitVec 64} (hbit : t.bitOut = s.bitOut) (hchar : t.charOut = s.charOut)
    (hresp : t.respOut = s.respOut ++ [v]) : ChannelsGrow s t :=
  ⟨[], [], [v], by simp [hbit], by simp [hchar], hresp, by simp, by simp, by simp⟩

theorem channelsGrow_blockEnd (s : State) : ChannelsGrow s (blockEnd s) := by
  obtain ⟨_, _, chars, hlen, h⟩ := asmPush_eq (decideBit s) (closedBlock s)
  exact ⟨[decideBit s], chars, [], blockEnd_bitOut s, by rw [blockEnd_eq, h]; rfl, by simp, by simp, by simpa, by simp⟩

theorem channelsGrow_flushBlock (s : State) : ChannelsGrow s (flushBlock s) := by
  rcases flushBlock_cases s with ⟨-, h⟩ | ⟨-, -, h⟩ | ⟨-, -, h⟩ <;> rw [h]
  · exact channelsGrow_none rfl rfl rfl
  · exact channelsGrow_blockEnd s
  · exact channelsGrow_none rfl rfl rfl

/-- Only a block's end and a READ append to a channel. -/
theorem Effect.channelsGrow {s t : State} {i : Instr} (h : Effect s i t) : ChannelsGrow s t := by
  cases h with
  | sampleEndingBlock smp => exact channelsGrow_blockEnd (feed (i16ToF64 smp) s)
  | endRun => exact channelsGrow_flushBlock s
  | readReserved | readUnassigned => exact channelsGrow_resp rfl rfl rfl
  | read _ r =>
    obtain ⟨_, _, h⟩ := spendRead_eq s r
    rw [h]
    exact channelsGrow_resp rfl rfl rfl
  | _ => exact channelsGrow_none rfl rfl rfl

/-- Settles O11: a command appends as `Effect.channelsGrow` says, and the other steps append nothing. -/
theorem channelsOnlyGrow : Obligations.ChannelsOnlyGrow := by
  intro s t h
  rcases step_cases h with ⟨-, rfl⟩ | ⟨rest, -, rfl⟩ | ⟨w, rest, i, -, -, heffect⟩ | ⟨w, rest, -, -, rfl⟩
  · exact channelsGrow_none rfl rfl rfl
  · exact channelsGrow_none rfl rfl rfl
  · exact heffect.channelsGrow
  · exact channelsGrow_none rfl rfl rfl

/-! ### The active configuration and the coefficients -/

/-- The active registers and both filters' coefficient registers are the same. -/
def SameConfiguration (s t : State) : Prop :=
  t.active = s.active ∧ SameCoefficients s.mark t.mark ∧ SameCoefficients s.space t.space

theorem sameConfiguration_blockEnd (s : State) : SameConfiguration s (blockEnd s) := by
  simp [SameConfiguration, SameCoefficients]

theorem sameConfiguration_flushBlock (s : State) : SameConfiguration s (flushBlock s) := by
  rcases flushBlock_cases s with ⟨-, h⟩ | ⟨-, -, h⟩ | ⟨-, -, h⟩ <;> rw [h]
  · simp [SameConfiguration, SameCoefficients]
  · exact sameConfiguration_blockEnd s
  · simp [SameConfiguration, SameCoefficients]

/-- STEP, RESET and the draws of a READ keep the coefficients; only CONFIGURE constructs new ones. -/
theorem Effect.sameConfiguration {s t : State} {i : Instr} (h : Effect s i t)
    (hno : i ≠ .configure 0#64 ∨ validConfig s.staging = false) : SameConfiguration s t := by
  cases h with
  | configure hvalid => simp [hvalid] at hno
  | sampleEndingBlock smp => exact sameConfiguration_blockEnd (feed (i16ToF64 smp) s)
  | endRun => exact sameConfiguration_flushBlock s
  | read _ r =>
    obtain ⟨_, _, h⟩ := spendRead_eq s r
    rw [h]
    simp [SameConfiguration, SameCoefficients]
  | _ => simp [SameConfiguration, SameCoefficients]

/-- Settles O18: CONFIGURE with DATA zero is one word, and an illegal word is rejected. -/
theorem onlyConfigureLoadsTheConfiguration : Obligations.OnlyConfigureLoadsTheConfiguration := by
  intro s t w rest hin h hno
  rw [stagedValid_eq_validConfig] at hno
  cases hd : decode w with
  | instr i =>
    rw [step_instr hin hd] at h
    rw [ne_eq, ← decode_eq_configure_zero_iff, hd, Decoded.instr.injEq] at hno
    exact (effect_of_exec h).sameConfiguration hno
  | illegalOpcode =>
    rw [step_illegal hin hd] at h
    cases h
    exact ⟨rfl, ⟨rfl, rfl, rfl, rfl, rfl⟩, ⟨rfl, rfl, rfl, rfl, rfl⟩⟩

/-! ### The staging registers -/

/-- The opcodes of the four write commands (R44). -/
def WriteOpcode (opc : BitVec 8) : Prop := 0x10 ≤ opc.toNat ∧ opc.toNat ≤ 0x13

theorem not_writeOpcode_of_readOpcode {opc : BitVec 8} (h : readOpcode opc = true) : ¬WriteOpcode opc := by
  simp only [readOpcode, Bool.and_eq_true, decide_eq_true_eq] at h
  unfold WriteOpcode
  omega

theorem not_writeOpcode_read (sel : BitVec 6) (data : BitVec 64) : ¬WriteOpcode (opcodeOf (.read sel data)) :=
  not_writeOpcode_of_readOpcode ((readOpcode_opcodeOf _).2 ⟨sel, data, rfl⟩)

@[simp] theorem flushBlock_staging (s : State) : (flushBlock s).staging = s.staging := by
  rcases flushBlock_cases s with ⟨-, h⟩ | ⟨-, -, h⟩ | ⟨-, -, h⟩ <;> simp [h]

@[simp] theorem spendRead_staging (s : State) (r : ReadTarget) : (spendRead s r).staging = s.staging := by
  obtain ⟨_, _, h⟩ := spendRead_eq s r; simp [h]

/-- No other command writes a staging register. -/
theorem Effect.staging_eq {s t : State} {i : Instr} (h : Effect s i t) (hi : ¬WriteOpcode (opcodeOf i)) :
    t.staging = s.staging := by
  cases h with
  | wrRate | wrN | wrMarkf | wrSpacef => exact absurd (by simp [WriteOpcode, opcodeOf]) hi
  | _ => simp

/-- A write command writes its staging register, or is rejected and writes ERR. -/
theorem Effect.write_frame {s t : State} {i : Instr} (h : Effect s i t) (hi : WriteOpcode (opcodeOf i)) :
    t = { s with staging := t.staging, err := t.err } := by
  cases h with
  | wrRate | wrN | wrMarkf | wrSpacef | reserved => rfl
  | readReserved sel | readUnassigned sel | read sel => exact absurd hi (not_writeOpcode_read sel _)
  | _ => exact absurd hi (by simp [WriteOpcode, opcodeOf])

/-- Settles O19: a word's opcode is its command's, and an illegal word changes ERR only. -/
theorem onlyWriteCommandsChangeStaging : Obligations.OnlyWriteCommandsChangeStaging := by
  intro s t w rest hin h
  cases hd : decode w with
  | instr i =>
    rw [step_instr hin hd] at h
    have hopc : w.extractLsb' 64 8 = opcodeOf i := (fields_of_decode hd).1
    rw [hopc]
    exact ⟨(effect_of_exec h).staging_eq, (effect_of_exec h).write_frame⟩
  | illegalOpcode =>
    rw [step_illegal hin hd] at h
    cases h
    exact ⟨fun _ => rfl, fun _ => rfl⟩

end Sys2Proof.Machine
end

section
/-! Proofs of the families 10_state.md and 40_tone_filter.md: RESP_OUT, COS, SIN, K and KINT never reach the decode path
(R54, R59). The state without them steps as the state itself does, so they can be dropped before a step or after it. -/

namespace Sys2Proof.Machine

open Sys2Proof.Claims

/-! ### The state without the diagnostics -/

/-- A filter with COS, SIN, K and KINT blanked. -/
def Filter.blanked (f : Filter) : Filter := { f with cos := 0#64, sin := 0#64, k := 0#64, kint := 0#64 }

/-- The state with RESP_OUT and both filters' diagnostic registers blanked. -/
def State.blanked (s : State) : State :=
  { s with respOut := [], mark := s.mark.blanked, space := s.space.blanked }

theorem sameDecodePath_iff (s t : State) : SameDecodePath s t ↔ t.blanked = s.blanked := by
  simp only [SameDecodePath, State.blanked, Filter.blanked, State.mk.injEq, Filter.mk.injEq]
  tauto

/-! ### The operations of the decode path do not read what is blanked -/

theorem asmPush_blanked (b : Bool) (s : State) : asmPush b s.blanked = (asmPush b s).blanked := by
  by_cases h : s.fcnt = 9#4
  · rw [asmPush_last b s h, asmPush_last b s.blanked h]
    rfl
  · rw [asmPush_early b s h, asmPush_early b s.blanked h]
    rfl

theorem blockEnd_blanked (s : State) : blockEnd s.blanked = (blockEnd s).blanked :=
  asmPush_blanked (decideBit s) (closedBlock s)

theorem flushBlock_blanked (s : State) : flushBlock s.blanked = (flushBlock s).blanked := by
  by_cases hcnt : s.cnt = 0#32
  · rw [flushBlock_of_empty hcnt, flushBlock_of_empty (s := s.blanked) hcnt]
    rfl
  · cases hfull : s.fullblk with
    | true =>
      rw [flushBlock_of_full hcnt hfull, flushBlock_of_full (s := s.blanked) hcnt hfull, blockEnd_blanked]
      rfl
    | false =>
      rw [flushBlock_of_short hcnt hfull, flushBlock_of_short (s := s.blanked) hcnt hfull]
      rfl

/-- DERIVE writes the blanked registers anew. -/
theorem construct_blanked (s : State) : (construct s.blanked).blanked = (construct s).blanked := rfl

theorem spendRead_blanked (s : State) (r : ReadTarget) : spendRead s.blanked r = (spendRead s r).blanked := by
  cases r with
  | filter t v => cases t <;> rfl
  | _ => rfl

/-- What the next state looks like without the diagnostics. -/
def blankedNext : Host.Outcome State Fault Refusal → Option State
  | .next s => some s.blanked
  | .fault _ | .refused _ => none

/-- READ of an assigned selector appends the selector's value. -/
theorem exec_read_assigned {sel : BitVec 6} {r : ReadTarget} (s : State) (hsel : readTarget sel = some r) :
    exec (.read sel 0#64) s = .next (emitResp (readValue s r) (spendRead s r)) := by
  rw [exec, execRead, hsel]
  rfl

/-- A command with zero reserved bits: only a READ looks at what is blanked, and it sends it to RESP_OUT. -/
theorem exec_blanked_of_wellFormed {i : Instr} (hwf : i.wellFormed = true) (s : State) :
    blankedNext (exec i s.blanked) = blankedNext (exec i s) := by
  cases i with
  | wrRate | wrMarkf | wrSpacef => rfl
  | nop | clearErr | wrN =>
    obtain rfl := eq_of_beq hwf
    rfl
  | sample rsv smp =>
    obtain rfl : rsv = 0#48 := eq_of_beq hwf
    by_cases hctrl : s.ctrl = .configured
    · by_cases hlast : s.cnt + 1#32 = s.active.n
      · rw [exec_sample_ending hctrl hlast, exec_sample_ending (s := s.blanked) hctrl hlast]
        exact congrArg (fun t => some t.blanked) (blockEnd_blanked (feed (i16ToF64 smp) s))
      · rw [exec_sample_within hctrl hlast, exec_sample_within (s := s.blanked) hctrl hlast]
        rfl
    · rw [exec_sample_refused hctrl, exec_sample_refused (s := s.blanked) hctrl]
      rfl
  | endRun data =>
    obtain rfl : data = 0#64 := eq_of_beq hwf
    by_cases hctrl : s.ctrl = .configured
    · rw [exec_endRun_configured hctrl, exec_endRun_configured (s := s.blanked) hctrl, flushBlock_blanked]
      rfl
    · rw [exec_endRun_refused hctrl, exec_endRun_refused (s := s.blanked) hctrl]
      rfl
  | configure data =>
    obtain rfl : data = 0#64 := eq_of_beq hwf
    cases hvalid : stagedValid s.staging with
    | true =>
      rw [exec_configure_valid hvalid, exec_configure_valid (s := s.blanked) hvalid]
      exact congrArg some (construct_blanked s)
    | false =>
      rw [exec_configure_invalid hvalid, exec_configure_invalid (s := s.blanked) hvalid]
      rfl
  | read sel data =>
    obtain rfl : data = 0#64 := eq_of_beq hwf
    cases hsel : readTarget sel with
    | none =>
      rw [exec_read_unassigned s hsel, exec_read_unassigned s.blanked hsel]
      rfl
    | some r =>
      rw [exec_read_assigned s hsel, exec_read_assigned s.blanked hsel, spendRead_blanked]
      rfl

theorem exec_blanked (i : Instr) (s : State) : blankedNext (exec i s.blanked) = blankedNext (exec i s) := by
  cases hwf : i.wellFormed with
  | true => exact exec_blanked_of_wellFormed hwf s
  | false =>
    rw [exec_of_illFormed s hwf, exec_of_illFormed s.blanked hwf]
    rfl

theorem step_blanked (s : State) : blankedNext (step s.blanked) = blankedNext (step s) := by
  rcases hin : s.inbox with _ | ⟨w | _, rest⟩
  · rw [step_idle hin, step_idle (s := s.blanked) hin]
    rfl
  · cases hd : decode w with
    | instr i =>
      rw [step_instr hin hd, step_instr (s := s.blanked) hin hd]
      exact exec_blanked i (s.taken rest)
    | illegalOpcode =>
      rw [step_illegal hin hd, step_illegal (s := s.blanked) hin hd]
      rfl
  · rw [step_reset hin, step_reset (s := s.blanked) hin]
    rfl

/-- Settles O20: both states step as their common state without the diagnostics does. -/
theorem diagnosticsDoNotReachTheDecodePath : Obligations.DiagnosticsDoNotReachTheDecodePath := by
  intro s t s' t' hsame hs ht
  rw [sameDecodePath_iff] at hsame ⊢
  have hstep : blankedNext (step t) = blankedNext (step s) := by
    rw [← step_blanked t, ← step_blanked s, hsame]
  rw [hs, ht] at hstep
  exact Option.some.inj hstep

end Sys2Proof.Machine
end

section
/-! Proofs of the family 00_scope.md, R7: what the four operations give for finite operands. Each of the results is the
exact result, a fraction of two whole numbers with a sign, rounded once by `roundMagnitude`; so rounding is described
once, and then each operation's fraction. -/

namespace Sys2Proof.Machine

open Sys2Proof.Claims

/-! ### Rounding: the two magnitudes around the exact value -/

/-- The exact value lies between the values of two neighbouring magnitudes, `p` and `p + 1`, and rounding takes the
nearer of them, the even one at the half way, cut off at infinity. -/
theorem roundMagnitude_neighbours (num : Nat) {den : Nat} (hd : 0 < den) :
    ∃ p r, roundMagnitude num den = min r infMagnitude ∧
      unitsOf p * den ≤ num ∧ num < unitsOf (p + 1) * den ∧
      ((r = p ∧ 2 * num ≤ (unitsOf p + unitsOf (p + 1)) * den) ∨
        (r = p + 1 ∧ (unitsOf p + unitsOf (p + 1)) * den ≤ 2 * num)) ∧
      (2 * num = (unitsOf p + unitsOf (p + 1)) * den → r % 2 = 0) := by
  obtain ⟨k, q, m, hr, hlo, hhi, hq, hk, hm, heven⟩ := roundMagnitude_spec num den hd
  have hval : unitsOf (k * 2 ^ 52 + q) = q * 2 ^ k := unitsOf_scaled k q (by omega) hk
  have hnext : unitsOf (k * 2 ^ 52 + q + 1) = (q + 1) * 2 ^ k := by
    rw [Nat.add_assoc]
    exact unitsOf_scaled k (q + 1) (by omega) (by omega)
  have hmid : (2 * q + 1) * 2 ^ k = unitsOf (k * 2 ^ 52 + q) + unitsOf (k * 2 ^ 52 + q + 1) := by
    rw [hval, hnext]; ring
  rw [hmid] at hm heven
  refine ⟨k * 2 ^ 52 + q, k * 2 ^ 52 + m, hr, hval ▸ hlo, hnext ▸ hhi, ?_, fun h => ?_⟩
  · omega
  · have := heven h
    omega

/-- No magnitude's value lies between those of two neighbours. -/
theorem unitsOf_le_or_ge (p p' : Nat) : unitsOf p' ≤ unitsOf p ∨ unitsOf (p + 1) ≤ unitsOf p' := by
  rcases Nat.lt_or_ge p p' with h | h
  · exact .inr (unitsOf_strictMono.le_iff_le.2 h)
  · exact .inl (unitsOf_strictMono.le_iff_le.2 h)

/-- A finite rounded magnitude is nearest to the exact value among all magnitudes, and even when another one is as
near. -/
theorem roundMagnitude_nearest (num : Nat) {den : Nat} (hd : 0 < den) (hfin : roundMagnitude num den < infMagnitude)
    (p' : Nat) :
    |(num : Int) - unitsOf (roundMagnitude num den) * den| ≤ |(num : Int) - unitsOf p' * den| ∧
      (|(num : Int) - unitsOf (roundMagnitude num den) * den| = |(num : Int) - unitsOf p' * den| →
        unitsOf p' = unitsOf (roundMagnitude num den) ∨ roundMagnitude num den % 2 = 0) := by
  obtain ⟨p, r, hr, hlo, hhi, hside, heven⟩ := roundMagnitude_neighbours num hd
  obtain rfl : roundMagnitude num den = r := by omega
  have hout : unitsOf p' * den ≤ unitsOf p * den ∨ unitsOf (p + 1) * den ≤ unitsOf p' * den :=
    (unitsOf_le_or_ge p p').imp (Nat.mul_le_mul_right den) (Nat.mul_le_mul_right den)
  have hcancel : unitsOf p' * den = unitsOf (roundMagnitude num den) * den →
    unitsOf p' = unitsOf (roundMagnitude num den) := Nat.eq_of_mul_eq_mul_right hd
  rw [Nat.add_mul] at hside heven
  simp only [Int.abs_eq_natAbs, ← Nat.cast_mul]
  rcases hside with ⟨hlow, hhalf⟩ | ⟨hhigh, hhalf⟩
  · rw [hlow] at hcancel heven ⊢
    omega
  · rw [hhigh] at hcancel heven ⊢
    omega

/-- The same among all values: a negative one is no nearer than zero is. -/
theorem roundMagnitude_nearest_exact (num : Nat) {den : Nat} (hd : 0 < den)
    (hfin : roundMagnitude num den < infMagnitude) (x : F64) :
    |(num : Int) - unitsOf (roundMagnitude num den) * den| ≤ |(num : Int) - exact x * den| ∧
      (|(num : Int) - unitsOf (roundMagnitude num den) * den| = |(num : Int) - exact x * den| →
        exact x = unitsOf (roundMagnitude num den) ∨ roundMagnitude num den % 2 = 0) := by
  cases hs : signBit x with
  | false =>
    rw [exact_of_pos hs, Nat.cast_inj]
    exact roundMagnitude_nearest num hd hfin (magnitude x)
  | true =>
    obtain ⟨hle, heven⟩ := roundMagnitude_nearest num hd hfin 0
    have hvalue : 0 ≤ (unitsOf (magnitude x) : Int) * den := by positivity
    have hzero : (unitsOf (magnitude x) : Int) * den = 0 → (unitsOf (magnitude x) : Int) = 0 := fun h =>
      (Int.mul_eq_zero.1 h).resolve_right (by omega)
    rw [unitsOf_zero, Nat.cast_zero, Int.zero_mul, Int.sub_zero, Nat.abs_cast] at hle heven
    have hfar : |(num : Int) - exact x * den| = num + unitsOf (magnitude x) * den := by
      rw [exact_of_neg hs, Int.neg_mul, Int.sub_neg, abs_of_nonneg (by omega)]
    rw [hfar]
    refine ⟨by omega, fun htie => (heven (by omega)).imp_left fun h => ?_⟩
    rw [exact_of_neg hs, hzero (by omega), ← h]
    rfl

/-- A sign and a magnitude rounded once make the value nearest to the signed fraction. -/
theorem nearestEven_pack (neg : Bool) (num : Nat) {den : Nat} (hd : 0 < den)
    (hfin : isFinite (pack neg (roundMagnitude num den)) = true) :
    NearestEven (if neg then -(num : Int) else num) den (pack neg (roundMagnitude num den)) := by
  have hle := roundMagnitude_le num den
  rw [isFinite_pack neg hle, decide_eq_true_eq] at hfin
  intro x _
  rw [exact_pack neg hle, magnitude_pack neg (hle.trans_lt infMagnitude_lt)]
  cases neg with
  | false => exact roundMagnitude_nearest_exact num hd hfin x
  | true =>
    have h := roundMagnitude_nearest_exact num hd hfin (fneg x)
    have hflip : ∀ e : Int, |(num : Int) - e * den| = |-(num : Int) - -e * den| := fun e => by
      rw [← abs_neg]; congr 1; ring
    rw [hflip, hflip, exact_fneg, Int.neg_neg, Int.neg_eq_comm] at h
    simpa [eq_comm] using h

/-! ### Rounding: where it gives an infinity -/

/-- The threshold is half way between the largest finite magnitude's value and infinity's. -/
theorem unitsOf_around_overflow : unitsOf (infMagnitude - 1) + unitsOf infMagnitude = 2 * overflowUnits := by
  have hlast : infMagnitude - 1 = (2044 + 1) * 2 ^ 52 + (2 ^ 53 - 1) := by decide
  have hinf : infMagnitude = (2044 + 1) * 2 ^ 52 + 2 ^ 53 := by decide
  have hscale : ∀ e, (2 ^ 53 - 1) * 2 ^ (e + 1) + 2 ^ 53 * 2 ^ (e + 1) = 2 * ((2 ^ 54 - 1) * 2 ^ e) := fun e => by
    rw [Nat.pow_succ 2 e]; omega
  rw [hlast, hinf, unitsOf_scaled _ _ (by decide) (.inr (by decide)), unitsOf_scaled _ _ (by decide) (.inr (by decide)),
    hscale, overflowUnits]

theorem overflowUnits_pos : 0 < overflowUnits := by
  have hover := unitsOf_around_overflow
  have hinf : 0 < unitsOf infMagnitude := unitsOf_pos (by decide)
  omega

/-- Infinity's magnitude is even and the largest finite one odd, so the half way rounds up. -/
theorem roundMagnitude_lt_iff (num : Nat) {den : Nat} (hd : 0 < den) :
    roundMagnitude num den < infMagnitude ↔ num < overflowUnits * den := by
  obtain ⟨p, r, hr, hlo, hhi, hside, heven⟩ := roundMagnitude_neighbours num hd
  have hover := unitsOf_around_overflow
  have hodd : infMagnitude % 2 = 0 ∧ 1 ≤ infMagnitude := by decide
  have hstep : unitsOf (infMagnitude - 1) ≤ unitsOf infMagnitude := unitsOf_strictMono.le_iff_le.2 (by omega)
  have hlt : r < infMagnitude ↔ roundMagnitude num den < infMagnitude := by omega
  rw [← hlt]
  rcases Nat.lt_trichotomy (p + 1) infMagnitude with hbelow | hat | habove
  · have hp : unitsOf (p + 1) ≤ unitsOf (infMagnitude - 1) := unitsOf_strictMono.le_iff_le.2 (by omega)
    have hunder := Nat.mul_le_mul_right den (show unitsOf (p + 1) ≤ overflowUnits by omega)
    exact iff_of_true (by omega) (by omega)
  · rw [← hat, Nat.add_sub_cancel] at hover
    rw [hover, Nat.mul_assoc] at hside heven
    omega
  · have hp : unitsOf infMagnitude ≤ unitsOf p := unitsOf_strictMono.le_iff_le.2 (by omega)
    have hpast := Nat.mul_le_mul_right den (show overflowUnits ≤ unitsOf p by omega)
    exact iff_of_false (by omega) (by omega)

/-- A rounded magnitude is finite below the threshold and infinite from there on. -/
theorem isFinite_pack_round (neg : Bool) (num : Nat) {den : Nat} (hd : 0 < den) :
    isFinite (pack neg (roundMagnitude num den)) = true ↔ num < overflowUnits * den := by
  rw [isFinite_pack neg (roundMagnitude_le num den), decide_eq_true_eq, roundMagnitude_lt_iff num hd]

theorem signBit_pack_round (neg : Bool) (num den : Nat) : signBit (pack neg (roundMagnitude num den)) = neg :=
  signBit_pack neg ((roundMagnitude_le num den).trans_lt infMagnitude_lt)

theorem isNaN_pack_round (neg : Bool) (num den : Nat) : isNaN (pack neg (roundMagnitude num den)) = false :=
  isNaN_pack neg (roundMagnitude_le num den)

theorem isInf_pack_round (neg : Bool) {num den : Nat} (hd : 0 < den) (h : overflowUnits * den ≤ num) :
    isInf (pack neg (roundMagnitude num den)) = true := by
  have hnot := mt (roundMagnitude_lt_iff num hd).1 (Nat.not_lt.2 h)
  rw [isInf_pack neg (roundMagnitude_le num den), decide_eq_true_eq]
  exact le_antisymm (roundMagnitude_le num den) (Nat.not_lt.1 hnot)

/-! ### The sign and the fraction of each operation -/

theorem units_pos {x : F64} (h : isZero x = false) : 0 < units x :=
  unitsOf_pos fun h0 => by rw [(isZero_iff x).2 h0] at h; cases h

/-- The sign of a sum: the exact sum's, and for an exact zero -0 only where both operands are negative. -/
def sumSign (a b : F64) : Bool :=
  if exact a + exact b = 0 then signBit a && signBit b else decide (exact a + exact b < 0)

theorem sumSign_of_ne {a b : F64} (h : exact a + exact b ≠ 0) : sumSign a b = decide (exact a + exact b < 0) := if_neg h

theorem sumSign_of_eq {a b : F64} (h : exact a + exact b = 0) : sumSign a b = (signBit a && signBit b) := if_pos h

/-- A sum of finite operands is the exact sum rounded once, an exact zero too. -/
theorem fadd_eq_pack_round (nan : F64) {a b : F64} (ha : isFinite a = true) (hb : isFinite b = true) :
    fadd nan a b = pack (sumSign a b) (roundMagnitude (exact a + exact b).natAbs 1) := by
  rw [fadd_finite nan ha hb]
  split
  next h => rw [sumSign_of_eq h, h, Int.natAbs_zero, roundMagnitude_zero Nat.one_pos]
  next h => rw [sumSign_of_ne h, roundExact]

theorem exact_add_eq_signed (a b : F64) : exact a + exact b =
    if sumSign a b then -((exact a + exact b).natAbs : Int) else (exact a + exact b).natAbs := by
  by_cases h : exact a + exact b = 0
  · rw [h]
    simp
  · rw [sumSign_of_ne h]
    split
    next hneg => rw [decide_eq_true_eq] at hneg; omega
    next hpos => rw [decide_eq_true_eq] at hpos; omega

theorem exact_mul_eq_signed (a b : F64) : exact a * exact b =
    if signBit a != signBit b then -((units a * units b : Nat) : Int) else (units a * units b : Nat) := by
  cases hsa : signBit a <;> cases hsb : signBit b <;> simp [exact, hsa, hsb]

theorem exact_div_eq_signed (a b : F64) : (if signBit b then -exact a else exact a) * oneUnits =
    if signBit a != signBit b then -((units a * oneUnits : Nat) : Int) else (units a * oneUnits : Nat) := by
  generalize oneUnits = one
  cases hsa : signBit a <;> cases hsb : signBit b <;> simp [exact, hsa]

theorem nearestEven_fadd (nan : F64) {a b : F64} (ha : isFinite a = true) (hb : isFinite b = true)
    (hfin : isFinite (fadd nan a b) = true) : NearestEven (exact a + exact b) 1 (fadd nan a b) := by
  rw [fadd_eq_pack_round nan ha hb] at hfin ⊢
  have h := nearestEven_pack _ _ Nat.one_pos hfin
  rwa [← exact_add_eq_signed] at h

/-- Settles O54: each result is its exact result's sign and magnitude rounded once. -/
theorem arithmeticRoundsToNearestEven : Obligations.ArithmeticRoundsToNearestEven := by
  intro nan a b ha hb
  refine ⟨nearestEven_fadd nan ha hb, fun hfin => ?sub, fun hfin => ?mul, fun hz hfin => ?div⟩
  case sub =>
    have hb' : isFinite (fneg b) = true := by rwa [isFinite_fneg]
    rw [Int.sub_eq_add_neg, ← exact_fneg]
    exact nearestEven_fadd nan ha hb' hfin
  case mul =>
    rw [fmul_finite nan ha hb] at hfin ⊢
    rw [exact_mul_eq_signed]
    exact nearestEven_pack _ _ oneUnits_pos hfin
  case div =>
    rw [fdiv_finite nan ha hb hz] at hfin ⊢
    rw [exact_div_eq_signed]
    exact nearestEven_pack _ _ (units_pos hz) hfin

/-- Settles O55: the threshold of `roundMagnitude`, at each operation's fraction. -/
theorem overflowRoundsToInfinity : Obligations.OverflowRoundsToInfinity := by
  intro nan a b ha hb
  rw [fadd_eq_pack_round nan ha hb, fmul_finite nan ha hb]
  refine ⟨?addFinite, fun h => ⟨?addInf, ?addSign⟩, isFinite_pack_round _ _ oneUnits_pos,
    fun h => ⟨isInf_pack_round _ oneUnits_pos h, signBit_pack_round _ _ _⟩, fun hz => ?div⟩
  case addFinite => rw [isFinite_pack_round _ _ Nat.one_pos, Nat.mul_one]
  case addInf => exact isInf_pack_round _ Nat.one_pos (by rwa [Nat.mul_one])
  case addSign =>
    have hpos := overflowUnits_pos
    rw [signBit_pack_round, sumSign_of_ne (by omega)]
  case div =>
    rw [fdiv_finite nan ha hb hz]
    exact ⟨isFinite_pack_round _ _ (units_pos hz),
      fun h => ⟨isInf_pack_round _ (units_pos hz) h, signBit_pack_round _ _ _⟩⟩

end Sys2Proof.Machine
end

section
/-! Proofs of the family 00_scope.md, R7, continued: NaNs, infinities and zeros as operands, and the signs of the
results. One lemma says what each operation gives for each kind of operands. -/

namespace Sys2Proof.Machine

open Sys2Proof.Claims

/-! ### The signed infinity and the signed zero -/

theorem isInf_pack_inf (neg : Bool) : isInf (pack neg infMagnitude) = true := by
  rw [isInf_pack neg le_rfl]
  exact decide_eq_true rfl

theorem signBit_pack_inf (neg : Bool) : signBit (pack neg infMagnitude) = neg := signBit_pack neg infMagnitude_lt

theorem signBit_pack_zero (neg : Bool) : signBit (pack neg 0) = neg := signBit_pack neg (by decide)

/-- An infinity is of no other kind. -/
theorem infinite_kinds {x : F64} (h : isInf x = true) : isNaN x = false ∧ isZero x = false := by
  rw [isInf_iff] at h
  rw [isNaN, isZero, h]
  decide

/-! ### Sums with an infinity -/

theorem fadd_inf_inf (nan : F64) {a b : F64} (ha : isInf a = true) (hb : isInf b = true) :
    fadd nan a b = if signBit a = signBit b then a else nan := by
  by_cases hs : signBit a = signBit b <;> simp [fadd, infinite_kinds ha, infinite_kinds hb, ha, hb, hs]

theorem fadd_inf_finite (nan : F64) {a b : F64} (ha : isInf a = true) (hb : isFinite b = true) : fadd nan a b = a := by
  simp [fadd, infinite_kinds ha, finite_kinds hb, ha]

theorem fadd_finite_inf (nan : F64) {a b : F64} (ha : isFinite a = true) (hb : isInf b = true) : fadd nan a b = b := by
  simp [fadd, finite_kinds ha, infinite_kinds hb, hb]

/-- The sum of two infinities is a NaN exactly where their signs differ. -/
theorem isNaN_fadd_inf_inf {nan a b : F64} (hn : isNaN nan = true) (ha : isInf a = true) (hb : isInf b = true) :
    isNaN (fadd nan a b) = true ↔ signBit a ≠ signBit b := by
  rw [fadd_inf_inf nan ha hb]
  split
  next hs => simp [hs, infinite_kinds ha]
  next hs => simp [hs, hn]

/-! ### Products and quotients with an infinity or a zero -/

/-- A product with an infinity and without a zero or a NaN. -/
theorem fmul_of_isInf (nan : F64) {a b : F64} (hna : isNaN a = false) (hnb : isNaN b = false)
    (hza : isZero a = false) (hzb : isZero b = false) (h : isInf a = true ∨ isInf b = true) :
    fmul nan a b = pack (signBit a != signBit b) infMagnitude := by
  rcases h with h | h <;> simp [fmul, hna, hnb, hza, hzb, h]

theorem fmul_inf_inf (nan : F64) {a b : F64} (ha : isInf a = true) (hb : isInf b = true) :
    fmul nan a b = pack (signBit a != signBit b) infMagnitude :=
  fmul_of_isInf nan (infinite_kinds ha).1 (infinite_kinds hb).1 (infinite_kinds ha).2 (infinite_kinds hb).2 (.inl ha)

theorem fmul_inf_finite (nan : F64) {a b : F64} (ha : isInf a = true) (hb : isFinite b = true)
    (hz : isZero b = false) : fmul nan a b = pack (signBit a != signBit b) infMagnitude :=
  fmul_of_isInf nan (infinite_kinds ha).1 (finite_kinds hb).1 (infinite_kinds ha).2 hz (.inl ha)

theorem fmul_finite_inf (nan : F64) {a b : F64} (ha : isFinite a = true) (hb : isInf b = true)
    (hz : isZero a = false) : fmul nan a b = pack (signBit a != signBit b) infMagnitude :=
  fmul_of_isInf nan (finite_kinds ha).1 (infinite_kinds hb).1 hz (infinite_kinds hb).2 (.inr hb)

theorem fmul_zero_inf (nan : F64) {a b : F64} (ha : isZero a = true) (hb : isInf b = true) : fmul nan a b = nan := by
  simp [fmul, finite_kinds (isFinite_of_isZero ha), infinite_kinds hb, ha, hb]

theorem fmul_inf_zero (nan : F64) {a b : F64} (ha : isInf a = true) (hb : isZero b = true) : fmul nan a b = nan := by
  simp [fmul, infinite_kinds ha, finite_kinds (isFinite_of_isZero hb), ha, hb]

theorem fdiv_inf_inf (nan : F64) {a b : F64} (ha : isInf a = true) (hb : isInf b = true) : fdiv nan a b = nan := by
  simp [fdiv, infinite_kinds ha, infinite_kinds hb, ha, hb]

theorem fdiv_inf_finite (nan : F64) {a b : F64} (ha : isInf a = true) (hb : isFinite b = true) :
    fdiv nan a b = pack (signBit a != signBit b) infMagnitude := by
  simp [fdiv, infinite_kinds ha, finite_kinds hb, ha]

theorem fdiv_finite_inf (nan : F64) {a b : F64} (ha : isFinite a = true) (hb : isInf b = true) :
    fdiv nan a b = pack (signBit a != signBit b) 0 := by
  simp [fdiv, finite_kinds ha, infinite_kinds hb, hb]

theorem fdiv_zero_zero (nan : F64) {a b : F64} (ha : isZero a = true) (hb : isZero b = true) : fdiv nan a b = nan := by
  simp [fdiv, finite_kinds (isFinite_of_isZero ha), finite_kinds (isFinite_of_isZero hb), ha, hb]

/-- A finite value other than zero, divided by a zero. -/
theorem fdiv_by_zero (nan : F64) {a b : F64} (ha : isFinite a = true) (hza : isZero a = false)
    (hb : isZero b = true) : fdiv nan a b = pack (signBit a != signBit b) infMagnitude := by
  simp [fdiv, finite_kinds ha, finite_kinds (isFinite_of_isZero hb), hza, hb]

/-! ### Sums of finite operands that are exactly zero -/

theorem fadd_exact_zero (nan : F64) {a b : F64} (ha : isFinite a = true) (hb : isFinite b = true)
    (h : exact a + exact b = 0) : fadd nan a b = pack (signBit a && signBit b) 0 := by
  rw [fadd_finite nan ha hb, if_pos h]

theorem fsub_exact_zero (nan : F64) {a b : F64} (ha : isFinite a = true) (hb : isFinite b = true)
    (h : exact a - exact b = 0) : fsub nan a b = pack (signBit a && !signBit b) 0 := by
  have hb' : isFinite (fneg b) = true := by rwa [isFinite_fneg]
  rw [fsub, fadd_exact_zero nan ha hb' (by rw [exact_fneg]; omega), signBit_fneg]

theorem fsub_self (nan : F64) {a : F64} (ha : isFinite a = true) : fsub nan a a = 0x0000000000000000#64 := by
  rw [fsub_exact_zero nan ha ha (Int.sub_self _), Bool.and_not_self]
  rfl

/-- Settles O56: each clause is the operation's value for its kinds of operands. -/
theorem specialValuesOfArithmetic : Obligations.SpecialValuesOfArithmetic := by
  intro nan a b hn
  refine ⟨fun h => ?nan, fun ha hb => ?infInf, fun ha hb => ?infFinite, fun ha hb => ?zeroInf,
    fun ha hb => ?zeroZero, fun ha hza hb => ?byZero, fun ha hb => ?finite, fun ha hb h => ?zeroSum,
    fun ha => fsub_self nan ha⟩
  case nan =>
    rw [fadd_of_isNaN nan h, fsub_of_isNaN nan h, fmul_of_isNaN nan h, fdiv_of_isNaN nan h]
    exact ⟨hn, hn, hn, hn⟩
  case infInf =>
    have hb' : isInf (fneg b) = true := by rwa [isInf_fneg]
    rw [fdiv_inf_inf nan ha hb, fmul_inf_inf nan ha hb, isNaN_fadd_inf_inf hn ha hb, fsub,
      isNaN_fadd_inf_inf hn ha hb', fadd_inf_inf nan ha hb, fadd_inf_inf nan ha hb', signBit_fneg]
    refine ⟨hn, Iff.rfl, ?_, fun hs => if_pos hs, fun hs => if_pos ?_, isInf_pack_inf _, signBit_pack_inf _⟩
    · cases signBit a <;> cases signBit b <;> decide
    · exact Bool.eq_not.2 hs
  case infFinite =>
    have ha' : isInf (fneg a) = true := by rwa [isInf_fneg]
    have hb' : isFinite (fneg b) = true := by rwa [isFinite_fneg]
    rw [fdiv_inf_finite nan ha hb, fdiv_finite_inf nan hb ha, bne_comm (a := signBit b)]
    refine ⟨fadd_inf_finite nan ha hb, fadd_finite_inf nan hb ha, fadd_inf_finite nan ha hb',
      fadd_finite_inf nan hb ha', isInf_pack_inf _, signBit_pack_inf _, isZero_pack_zero _, signBit_pack_zero _,
      fun hz => ?_⟩
    rw [fmul_inf_finite nan ha hb hz, fmul_finite_inf nan hb ha hz, bne_comm (a := signBit b)]
    exact ⟨isInf_pack_inf _, signBit_pack_inf _, rfl⟩
  case zeroInf =>
    rw [fmul_zero_inf nan ha hb, fmul_inf_zero nan hb ha]
    exact ⟨hn, hn⟩
  case zeroZero => rwa [fdiv_zero_zero nan ha hb]
  case byZero =>
    rw [fdiv_by_zero nan ha hza hb]
    exact ⟨isInf_pack_inf _, signBit_pack_inf _⟩
  case finite =>
    have hb' : isFinite (fneg b) = true := by rwa [isFinite_fneg]
    rw [fsub, fadd_eq_pack_round nan ha hb, fadd_eq_pack_round nan ha hb', fmul_finite nan ha hb]
    exact ⟨isNaN_pack_round _ _ _, isNaN_pack_round _ _ _, isNaN_pack_round _ _ _⟩
  case zeroSum =>
    rw [fadd_exact_zero nan ha hb h]
    exact ⟨isZero_pack_zero _, signBit_pack_zero _⟩

/-! ### The signs of finite operands' results -/

/-- A sum that is not exactly zero is a whole number of units, so it does not round to zero. -/
theorem fadd_exact_nonzero (nan : F64) {a b : F64} (ha : isFinite a = true) (hb : isFinite b = true)
    (h : exact a + exact b ≠ 0) :
    isZero (fadd nan a b) = false ∧ signBit (fadd nan a b) = decide (exact a + exact b < 0) := by
  have hpos := roundMagnitude_pos (Int.natAbs_pos.2 h)
  have hlt := (roundMagnitude_le (exact a + exact b).natAbs 1).trans_lt infMagnitude_lt
  rw [fadd_eq_pack_round nan ha hb, signBit_pack_round, sumSign_of_ne h, isZero, magnitude_pack _ hlt]
  exact ⟨decide_eq_false hpos.ne', rfl⟩

theorem isZero_fdiv (nan : F64) {a b : F64} (ha : isZero a = true) (hb : isFinite b = true) (hz : isZero b = false) :
    isZero (fdiv nan a b) = true := by
  have hunits : units a = 0 := by rw [units, (isZero_iff a).1 ha, unitsOf_zero]
  rw [fdiv_finite nan (isFinite_of_isZero ha) hb hz, hunits, Nat.zero_mul, roundMagnitude_zero (units_pos hz)]
  exact isZero_pack_zero _

theorem signBit_fmul (nan : F64) {a b : F64} (ha : isFinite a = true) (hb : isFinite b = true) :
    signBit (fmul nan a b) = (signBit a != signBit b) := by
  rw [fmul_finite nan ha hb, signBit_pack_round]

/-- Settles O59: the sign of a product or quotient is the sign packed with its magnitude, that of a sum the exact
sum's; IMAG is a product. -/
theorem signsOfFiniteResults : Obligations.SignsOfFiniteResults := by
  refine ⟨fun nan a b ha hb => ⟨signBit_fmul nan ha hb, isZero_fmul nan ha hb, fun hz => ⟨?quotient, fun hza => ?zero⟩,
    fadd_exact_nonzero nan ha hb, fun h => ?difference, fun h => ?zeroDifference⟩, fun tone f hq2 hfin hneg => ?imag⟩
  case quotient => rw [fdiv_finite nan ha hb hz, signBit_pack_round]
  case zero => exact isZero_fdiv nan hza hb hz
  case difference =>
    have hb' : isFinite (fneg b) = true := by rwa [isFinite_fneg]
    rw [Int.sub_eq_add_neg, ← exact_fneg] at h ⊢
    exact fadd_exact_nonzero nan ha hb' h
  case zeroDifference =>
    rw [fsub_exact_zero nan ha hb h]
    exact ⟨isZero_pack_zero _, signBit_pack_zero _⟩
  case imag =>
    have hz : isZero f.q2 = true := by rw [hq2]; decide
    refine eq_of_sign_magnitude ?_ ((isZero_iff _).1 (isZero_fmul _ (isFinite_of_isZero hz) hfin (.inl hz)))
    rw [Filter.imag, signBit_fmul _ (isFinite_of_isZero hz) hfin, hq2, hneg]
    decide

end Sys2Proof.Machine
end

section
/-! Proofs of the families 40_tone_filter.md and 43_commands.md about one filter's arithmetic: a bin index of +inf (R51
to R54), STEP (R56), MAG (R58), and a READ that computes (R86). -/

namespace Sys2Proof.Machine

open Sys2Proof.Claims

/-! ### A bin index of +inf -/

/-- With K = +inf omega is an infinity: neither product with K nor the quotient by a finite N brings it back. -/
theorem isFinite_omega_of_infinite (nan nan' : F64) {k : F64} (hk : k = 0x7FF0000000000000#64) (n : BitVec 32) :
    isFinite (fdiv nan' (fmul nan 0x401921FB54442D18#64 k) (u32ToF64 n)) = false := by
  have hkinf : isInf k = true := by rw [hk]; decide
  have hn : isFinite (u32ToF64 n) = true := (integerConversionsAreExact.2.1 n).1
  rw [fmul_finite_inf nan (by decide) hkinf (by decide), fdiv_inf_finite nan' (isInf_pack_inf _) hn,
    isFinite_pack _ le_rfl]
  exact decide_eq_false (lt_irrefl _)

theorem isNaN_of_sameF64 {x y : F64} (h : SameF64 x y) (hy : isNaN y = true) : isNaN x = true := by
  rcases h with rfl | ⟨hx, -⟩
  · exact hy
  · exact hx

/-- DERIVE with K = +inf, under P-COS-NAN. -/
theorem isNaN_of_constructed_infinite (hcos : PCosNan) {f : Filter} {n : BitVec 32} {freq rate : F64}
    (h : Constructed f n freq rate) (hk : f.k = 0x7FF0000000000000#64) :
    f.kint = 0xFFFFFFFFFFFFFFFF#64 ∧ isNaN f.cos = true ∧ isNaN f.sin = true ∧ isNaN f.coeff = true := by
  obtain ⟨nan, omega, hn, -, homega, hc, hs, hcoeff, hkint, -, -⟩ := h
  have hinf : isFinite omega = false := by
    rw [homega, fmul_two_pi64]
    exact isFinite_omega_of_infinite _ _ hk n
  have hcNaN := isNaN_of_sameF64 hc (hcos omega hinf).1
  refine ⟨?_, hcNaN, isNaN_of_sameF64 hs (hcos omega hinf).2, ?_⟩
  · rw [hkint, hk]
    decide
  · rw [hcoeff, fmul_of_isNaN _ (.inr hcNaN)]
    exact hn 5

/-- Settles O27: both filters of a valid CONFIGURE are constructed by DERIVE. -/
theorem infiniteBinGivesNaNCoefficients : Obligations.InfiniteBinGivesNaNCoefficients := by
  intro hcos s t hvalid hexec
  rw [exec_configure_valid hvalid] at hexec
  cases hexec
  exact ⟨isNaN_of_constructed_infinite hcos (constructed_derive .mark _ _ _ _),
    isNaN_of_constructed_infinite hcos (constructed_derive .space _ _ _ _)⟩

/-! ### Closed sums, evaluated with one NaN pattern -/

/-- A sum evaluated with one NaN pattern has that value with every pattern. -/
theorem fadd_eval {a b r : F64} (h : fadd quietNaN a b = r) (hr : isNaN r = false) (nan : F64) : fadd nan a b = r :=
  (fadd_pattern nan isNaN_quietNaN (h ▸ hr)).trans h

theorem fsub_eval {a b r : F64} (h : fsub quietNaN a b = r) (hr : isNaN r = false) (nan : F64) : fsub nan a b = r :=
  fadd_eval h hr nan

/-! ### STEP -/

/-- A NaN coefficient passes through R56's product, difference and sum. -/
theorem isNaN_step_q1 (t : Tone) {f : Filter} (v : F64) (h : isNaN f.coeff = true) : isNaN (f.step t v).q1 = true := by
  have hprod : isNaN (fmul (f.nan t 0) f.coeff f.q1) = true := by
    rw [fmul_of_isNaN _ (.inl h)]
    exact isNaN_filter_nan t f 0
  have hdiff : isNaN (fsub (f.nan t 1) (fmul (f.nan t 0) f.coeff f.q1) f.q2) = true := by
    rw [fsub_of_isNaN _ (.inl hprod)]
    exact isNaN_filter_nan t f 1
  rw [Filter.step_q1, fadd_of_isNaN _ (.inl hdiff)]
  exact isNaN_filter_nan t f 2

/-- A STEP by +0.0 keeps the accumulators of a reset filter: +0.0 is the sample 0. -/
theorem Filter.Fresh.step_zero {f : Filter} (hf : f.Fresh) (t : Tone) :
    (f.step t 0#64).q1 = 0#64 ∧ (f.step t 0#64).q2 = 0#64 := by
  have hzero : i16ToF64 0#16 = 0#64 := intToF64_zero
  have h := hf.step_q1 t 0#16
  rw [hzero] at h
  exact ⟨h, hf.q1⟩

/-- R56's example: 2.0 * 1.0 - 0.0 + 1.0 = 3.0. -/
theorem step_q1_eq_three (t : Tone) {f : Filter} (hcoeff : f.coeff = 0x4000000000000000#64)
    (hq1 : f.q1 = 0x3FF0000000000000#64) (hq2 : f.q2 = 0#64) :
    (f.step t 0x3FF0000000000000#64).q1 = 0x4008000000000000#64 := by
  rw [Filter.step_q1, hcoeff, hq1, hq2,
    fmul_eval (r := 0x4000000000000000#64) (by decide +kernel) (by decide),
    fsub_eval (r := 0x4000000000000000#64) (by decide +kernel) (by decide),
    fadd_eval (r := 0x4008000000000000#64) (by decide +kernel) (by decide)]

/-- Settles O38: STEP's equations and its corner cases. -/
theorem stepFollowsTheRecursion : Obligations.StepFollowsTheRecursion := by
  refine fun tone f v => ⟨stepValue_step tone f v, rfl, ⟨rfl, rfl, rfl, rfl, rfl⟩, fun hc h1 h2 hv => ?zero,
    isNaN_step_q1 tone v, fun hc h1 h2 hv => ?closed⟩
  case zero =>
    rw [hv]
    exact Filter.Fresh.step_zero ⟨hc, h1, h2⟩ tone
  case closed =>
    rw [hv]
    exact step_q1_eq_three tone hc h1 h2

/-! ### MAG -/

/-- A NaN in an accumulator passes through its own square and the sum of the squares. -/
theorem isNaN_mag_of_isNaN_accumulator (t : Tone) {f : Filter} (h : isNaN f.q1 = true ∨ isNaN f.q2 = true) :
    isNaN (f.mag t) = true := by
  have hsquare : isNaN (fmul (f.nan t 0) f.q1 f.q1) = true ∨ isNaN (fmul (f.nan t 1) f.q2 f.q2) = true := by
    refine h.imp (fun h1 => ?_) (fun h2 => ?_)
    · rw [fmul_of_isNaN _ (.inl h1)]
      exact isNaN_filter_nan t f 0
    · rw [fmul_of_isNaN _ (.inl h2)]
      exact isNaN_filter_nan t f 1
  have hsum : isNaN (fadd (f.nan t 2) (fmul (f.nan t 0) f.q1 f.q1) (fmul (f.nan t 1) f.q2 f.q2)) = true := by
    rw [fadd_of_isNaN _ hsquare]
    exact isNaN_filter_nan t f 2
  rw [Filter.mag, fsub_of_isNaN _ (.inl hsum)]
  exact isNaN_filter_nan t f 5

/-- +0.0 less a zero of either sign is +0.0. -/
theorem fsub_posZero (nan : F64) {z : F64} (hz : isZero z = true) : fsub nan 0#64 z = 0#64 := by
  have h0 : exact 0#64 - exact z = 0 := by rw [exact_of_isZero hz]; decide
  rw [fsub_exact_zero nan (by decide) (isFinite_of_isZero hz) h0, show signBit 0#64 = false by decide, Bool.false_and]
  rfl

/-- The magnitude of cleared accumulators: the squares are +0.0, and the last term is a zero of COEFF's sign. -/
theorem Filter.Fresh.mag_eq_zero {f : Filter} (hf : f.Fresh) (t : Tone) : f.mag t = 0#64 := by
  have hsquare : ∀ nan, fmul nan 0#64 0#64 = 0#64 := fmul_eval (by decide +kernel) (by decide)
  have hsum : ∀ nan, fadd nan 0#64 0#64 = 0#64 := fadd_eval (by decide +kernel) (by decide)
  rw [Filter.mag, hf.q1, hf.q2, hsquare, hsquare, hsquare, hsum]
  exact fsub_posZero _ (isZero_fmul _ (by decide) hf.coeff (.inl (by decide)))

/-- R58's example: 3.0 * 3.0 + 1.0 * 1.0 - 3.0 * 1.0 * 2.0 = 4.0. -/
theorem mag_eq_four (t : Tone) {f : Filter} (hq1 : f.q1 = 0x4008000000000000#64)
    (hq2 : f.q2 = 0x3FF0000000000000#64) (hcoeff : f.coeff = 0x4000000000000000#64) :
    f.mag t = 0x4010000000000000#64 := by
  rw [Filter.mag, hcoeff, hq1, hq2,
    fmul_eval (a := 0x4008000000000000#64) (b := 0x4008000000000000#64) (r := 0x4022000000000000#64)
      (by decide +kernel) (by decide),
    fmul_eval (a := 0x3FF0000000000000#64) (r := 0x3FF0000000000000#64) (by decide +kernel) (by decide),
    fmul_eval (a := 0x4008000000000000#64) (b := 0x3FF0000000000000#64) (r := 0x4008000000000000#64)
      (by decide +kernel) (by decide),
    fmul_eval (r := 0x4018000000000000#64) (by decide +kernel) (by decide),
    fadd_eval (r := 0x4024000000000000#64) (by decide +kernel) (by decide),
    fsub_eval (r := 0x4010000000000000#64) (by decide +kernel) (by decide)]

/-- Settles O40: MAG's value and its corner cases, for a NaN by the register that holds it. -/
theorem magnitudeFollowsItsFormula : Obligations.MagnitudeFollowsItsFormula := by
  refine fun tone f => ⟨magValue_mag tone f, fun hc h1 h2 => Filter.Fresh.mag_eq_zero ⟨hc, h1, h2⟩ tone, ?_,
    fun h1 h2 hc => mag_eq_four tone h1 h2 hc⟩
  rintro (h1 | h2 | hc)
  · exact isNaN_mag_of_isNaN_accumulator tone (.inl h1)
  · exact isNaN_mag_of_isNaN_accumulator tone (.inr h2)
  · exact isNaN_mag_of_isNaN_coeff tone hc

/-! ### READ of MAG, REAL and IMAG -/

theorem realValue_real (t : Tone) (f : Filter) : RealValue f (f.real t) := ⟨f.nan t, isNaN_filter_nan t f, rfl⟩

theorem imagValue_imag (t : Tone) (f : Filter) : ImagValue f (f.imag t) := ⟨f.nan t, isNaN_filter_nan t f, rfl⟩

/-- A READ of an assigned selector appends its value; beside that it moves the draw counters only. -/
theorem exec_read_value {sel : BitVec 6} {r : ReadTarget} {P : F64 → Prop} (s : State)
    (hsel : readTarget sel = some r) (hval : P (readValue s r)) :
    ∃ t v, exec (.read sel 0#64) s = .next t ∧ P v ∧
      t = { s with
        mark := { s.mark with draws := t.mark.draws }
        space := { s.space with draws := t.space.draws }
        respOut := s.respOut ++ [v] } := by
  obtain ⟨dM, dS, h⟩ := spendRead_eq s r
  refine ⟨_, _, exec_read_assigned s hsel, hval, ?_⟩
  rw [h]
  rfl

/-- Settles O34: each selector's target, whose value is that of its formula. -/
theorem readComputesMagnitudeAndParts : Obligations.ReadComputesMagnitudeAndParts := by
  intro s
  simp only [List.forall_mem_cons, List.not_mem_nil, false_implies, implies_true, and_true]
  exact ⟨exec_read_value (r := .filter .mark .mag) s rfl (magValue_mag .mark s.mark),
    exec_read_value (r := .filter .mark .real) s rfl (realValue_real .mark s.mark),
    exec_read_value (r := .filter .mark .imag) s rfl (imagValue_imag .mark s.mark),
    exec_read_value (r := .filter .space .mag) s rfl (magValue_mag .space s.space),
    exec_read_value (r := .filter .space .real) s rfl (realValue_real .space s.space),
    exec_read_value (r := .filter .space .imag) s rfl (imagValue_imag .space s.space)⟩

end Sys2Proof.Machine
end

section
/-! Proofs of the family 42_frame_decoder.md, continued: ASM_PUSH of one bit (R68), and a character sent as a frame
(R70, R71). -/

namespace Sys2Proof.Machine

open Sys2Proof.Claims

/-- Settles O47: what the frame register and CHAR_OUT become is `framePush_asmPush`, and nothing else changes but
BIT_OUT. -/
theorem asmPushFillsTheFrame : Obligations.AsmPushFillsTheFrame := by
  refine fun s b => ⟨framePush_asmPush b s, ?_⟩
  obtain ⟨_, _, _, -, h⟩ := asmPush_eq b s
  rw [h]

/-- The frame of a character: start bit 0, the code's bits LSB first, bit 8, stop bit 1. -/
def characterFrame (code : BitVec 7) (bit8 : Bool) : List Bool :=
  [false] ++ (List.range 7).map code.getLsbD ++ [bit8, true]

/-- Its start and stop bits are those of a valid frame, and its cells 1 to 7 hold the code (R70, R71). -/
theorem frameChars_characterFrame (code : BitVec 7) (bit8 : Bool) :
    frameChars (fun j => (characterFrame code bit8).getD j false) = [code] := by
  have hcell : ∀ i ∈ List.range 7, (characterFrame code bit8).getD (1 + i) false = code.getLsbD i := by
    simp [characterFrame, List.range_succ]
  have hweights : ((List.range 7).map fun i => if (characterFrame code bit8).getD (1 + i) false then 2 ^ i else 0)
      = (List.range 7).map fun i => if code.getLsbD i then 2 ^ i else 0 :=
    List.map_congr_left fun i hi => by rw [hcell i hi]
  rw [frameChars, if_pos ⟨rfl, rfl⟩, hweights, ofNat_sum_bitWeights]

/-- Settles O49: the ten bits are one frame, read as the code. -/
theorem characterRoundTrip : Obligations.CharacterRoundTrip := by
  intro s code bit8 hcnt hbits
  have hpush := pushAll_frame (characterFrame code bit8) hcnt hbits rfl
  rw [frameChars_characterFrame] at hpush
  rw [characterFrame] at hpush
  rw [hpush]
  exact ⟨rfl, hcnt⟩

end Sys2Proof.Machine
end
